-- ==== Sys2Proof/Word.lean ====
section
/-! DEFINITION. The word types of the machine (spec/00_scope.md R7): a byte, a nibble, a three-bit code, a 32-bit word. -/

namespace Sys2Proof

/-- A byte: a program byte, a tape cell, a port byte (R7, R24). -/
abbrev Byte := BitVec 8

/-- Half a header byte: `c1`, `c2`, `pad`, `code2` (R81, R84, R86). -/
abbrev Nibble := BitVec 4

/-- A three-bit code: `code1` of the shapes PX and PP, the selector `spb` (R84 to R86). -/
abbrev Code := BitVec 3

/-- A 32-bit word: an operand, `pc`, `MEMSIZE`, the magic (R21, R25, R88). -/
abbrev Word := BitVec 32

end Sys2Proof
end

