-- ==== Sys2Proof/Machine/Flags.lean ====
section
/-! DEFINITION. The hardware has no flags (10_state.md R30). What other machines test a flag for, the two jumps test on the
current cell itself, on all 8 bits (43_tape_unit.md R209). -/

namespace Sys2Proof.Machine

/-- The test of `JZ` (42_extended.md R177). -/
def isZero (v : Byte) : Bool := v == 0

/-- The test of `JNZ` (R178). -/
def isNonzero (v : Byte) : Bool := v != 0

end Sys2Proof.Machine
end

