-- ==== Sys2Proof/Machine/Operands.lean ====
section
/-! DEFINITION. The three readings of the 32-bit operand (30_encoding.md R89 to R91). There is no other operand form: plain
codes have none (R88) and every cell access is cursor-indirect (20_memory.md R52). -/

namespace Sys2Proof.Machine

/-- `n = opnd[7:0]`, for `ADDN` and `SUBN`: the other three bytes are ignored (R89). -/
def lowByte (opnd : Word) : Byte := opnd.extractLsb' 0 8

/-- `m = abs(sext_32(opnd))`, for `RIGHTN` and `LEFTN`, with no overflow: 0 to 2^31 (R90). -/
def magnitude (opnd : Word) : Nat := opnd.toInt.natAbs

/-- `t = sext_32(opnd)`, for `JZ` and `JNZ` (R91). -/
def target (opnd : Word) : Int := opnd.toInt

end Sys2Proof.Machine
end

