-- ==== Sys2Proof/Syntax.lean ====
section
/-! DEFINITION. The instructions: one constructor for each of the 32 rows of spec/opcode_table.json, that is one for each
plain code or extended opcode in each place it can stand (30_encoding.md R103; log 5). -/

namespace Sys2Proof

/-- The place of a sub-operation in its header byte: slot 1 is performed first (00_scope.md R13). -/
inductive Slot where
  | one
  | two
  deriving DecidableEq, Repr

/-- A sub-operation in its place. The suffix is the place: `S1` a plain code in slot 1 (shapes PP and PX), `S2` a plain code
in slot 2 (shape PP), `X` an extended opcode on its own (shape X, slot 1), `PX` an extended opcode in slot 2 (shape PX).
The fields are the row's: `c2` the low nibble of the header byte, `code1` its bits 6:4, `pad` the ignored low nibble of shape
X (kept only where `FAULT_INFO` shows it, R87, R179), `opnd` the 32-bit operand (R88). -/
inductive Instr where
  | incS1 (c2 : Nibble)
  | decS1 (c2 : Nibble)
  | rightS1 (c2 : Nibble)
  | leftS1 (c2 : Nibble)
  | rsvp4S1 (c2 : Nibble)
  | rsvp5S1 (c2 : Nibble)
  | outS1 (c2 : Nibble)
  | inS1 (c2 : Nibble)
  | incS2 (code1 : Code)
  | decS2 (code1 : Code)
  | rightS2 (code1 : Code)
  | leftS2 (code1 : Code)
  | rsvp4S2 (code1 : Code)
  | rsvp5S2 (code1 : Code)
  | outS2 (code1 : Code)
  | inS2 (code1 : Code)
  | rsvpeS2 (code1 : Code)
  | addnX (opnd : Word)
  | subnX (opnd : Word)
  | rightnX (opnd : Word)
  | leftnX (opnd : Word)
  | jzX (opnd : Word)
  | jnzX (opnd : Word)
  | rsvx6X (pad : Nibble)
  | rsvx7X (pad : Nibble)
  | addnPX (code1 : Code) (opnd : Word)
  | subnPX (code1 : Code) (opnd : Word)
  | rightnPX (code1 : Code) (opnd : Word)
  | leftnPX (code1 : Code) (opnd : Word)
  | jzPX (code1 : Code) (opnd : Word)
  | jnzPX (code1 : Code) (opnd : Word)
  | rsvx7PX (code1 : Code)
  deriving DecidableEq, Repr

/-- The whole instruction of one header byte: its sub-operation of slot 1 and, in the shapes PX and PP, that of slot 2
(R82). -/
structure Packet where
  first : Instr
  second : Option Instr
  deriving DecidableEq, Repr

/-- The slot of a sub-operation (R13): for shape X the only one is slot 1 (10_state.md R36). -/
def Instr.slot : Instr → Slot
  | .incS1 _ | .decS1 _ | .rightS1 _ | .leftS1 _ | .rsvp4S1 _ | .rsvp5S1 _ | .outS1 _ | .inS1 _ => .one
  | .incS2 _ | .decS2 _ | .rightS2 _ | .leftS2 _ | .rsvp4S2 _ | .rsvp5S2 _ | .outS2 _ | .inS2 _ | .rsvpeS2 _ => .two
  | .addnX _ | .subnX _ | .rightnX _ | .leftnX _ | .jzX _ | .jnzX _ | .rsvx6X _ | .rsvx7X _ => .one
  | .addnPX _ _ | .subnPX _ _ | .rightnPX _ _ | .leftnPX _ _ | .jzPX _ _ | .jnzPX _ _ | .rsvx7PX _ => .two

/-- The sub-operation of a packet in a slot. -/
def Packet.inSlot (p : Packet) : Slot → Option Instr
  | .one => some p.first
  | .two => p.second

/-- The 17 mnemonics of the opcode table (30_encoding.md R95, R96): what a sub-operation is, whatever its place. -/
inductive Op where
  | inc | dec | right | left | rsvp4 | rsvp5 | out | input | rsvpe
  | addn | subn | rightn | leftn | jz | jnz | rsvx6 | rsvx7
  deriving DecidableEq, Repr

/-- The mnemonic of a sub-operation. -/
def Instr.op : Instr → Op
  | .incS1 _ | .incS2 _ => .inc
  | .decS1 _ | .decS2 _ => .dec
  | .rightS1 _ | .rightS2 _ => .right
  | .leftS1 _ | .leftS2 _ => .left
  | .rsvp4S1 _ | .rsvp4S2 _ => .rsvp4
  | .rsvp5S1 _ | .rsvp5S2 _ => .rsvp5
  | .outS1 _ | .outS2 _ => .out
  | .inS1 _ | .inS2 _ => .input
  | .rsvpeS2 _ => .rsvpe
  | .addnX _ | .addnPX _ _ => .addn
  | .subnX _ | .subnPX _ _ => .subn
  | .rightnX _ | .rightnPX _ _ => .rightn
  | .leftnX _ | .leftnPX _ _ => .leftn
  | .jzX _ | .jzPX _ _ => .jz
  | .jnzX _ | .jnzPX _ _ => .jnz
  | .rsvx6X _ => .rsvx6
  | .rsvx7X _ | .rsvx7PX _ => .rsvx7

/-- The operand of an extended opcode with a defined selector (R88); the other sub-operations have none. -/
def Instr.opnd : Instr → Option Word
  | .addnX opnd | .subnX opnd | .rightnX opnd | .leftnX opnd | .jzX opnd | .jnzX opnd => some opnd
  | .addnPX _ opnd | .subnPX _ opnd | .rightnPX _ opnd | .leftnPX _ opnd | .jzPX _ opnd | .jnzPX _ opnd => some opnd
  | .incS1 _ | .decS1 _ | .rightS1 _ | .leftS1 _ | .rsvp4S1 _ | .rsvp5S1 _ | .outS1 _ | .inS1 _ => none
  | .incS2 _ | .decS2 _ | .rightS2 _ | .leftS2 _ | .rsvp4S2 _ | .rsvp5S2 _ | .outS2 _ | .inS2 _ | .rsvpeS2 _ => none
  | .rsvx6X _ | .rsvx7X _ | .rsvx7PX _ => none

end Sys2Proof
end

