-- ==== Sys2Proof/WellFormed.lean ====
section
/-! DEFINITION. Which packets are one header byte. Every `Instr` is well formed by the widths of its fields (each row's free
bits may hold anything, 30_encoding.md R83, R150, R170), so the checks are on the pair: its places and its shared byte. -/

namespace Sys2Proof

/-- The high nibble's plain code and the low nibble of the header byte, for a plain code in slot 1 (R85, R86, R95). -/
def Instr.asFirst : Instr → Option (Code × Nibble)
  | .incS1 c2 => some (0, c2)
  | .decS1 c2 => some (1, c2)
  | .rightS1 c2 => some (2, c2)
  | .leftS1 c2 => some (3, c2)
  | .rsvp4S1 c2 => some (4, c2)
  | .rsvp5S1 c2 => some (5, c2)
  | .outS1 c2 => some (6, c2)
  | .inS1 c2 => some (7, c2)
  | .incS2 _ | .decS2 _ | .rightS2 _ | .leftS2 _ | .rsvp4S2 _ | .rsvp5S2 _ | .outS2 _ | .inS2 _ | .rsvpeS2 _ => none
  | .addnX _ | .subnX _ | .rightnX _ | .leftnX _ | .jzX _ | .jnzX _ | .rsvx6X _ | .rsvx7X _ => none
  | .addnPX _ _ | .subnPX _ _ | .rightnPX _ _ | .leftnPX _ _ | .jzPX _ _ | .jnzPX _ _ | .rsvx7PX _ => none

/-- The same two nibbles, for a sub-operation of slot 2: `code2` in shape PP, `8 + spb` in shape PX (R85, R86, R95, R96). -/
def Instr.asSecond : Instr → Option (Code × Nibble)
  | .incS1 _ | .decS1 _ | .rightS1 _ | .leftS1 _ | .rsvp4S1 _ | .rsvp5S1 _ | .outS1 _ | .inS1 _ => none
  | .incS2 code1 => some (code1, 0)
  | .decS2 code1 => some (code1, 1)
  | .rightS2 code1 => some (code1, 2)
  | .leftS2 code1 => some (code1, 3)
  | .rsvp4S2 code1 => some (code1, 4)
  | .rsvp5S2 code1 => some (code1, 5)
  | .outS2 code1 => some (code1, 6)
  | .inS2 code1 => some (code1, 7)
  | .rsvpeS2 code1 => some (code1, 14)
  | .addnX _ | .subnX _ | .rightnX _ | .leftnX _ | .jzX _ | .jnzX _ | .rsvx6X _ | .rsvx7X _ => none
  | .addnPX code1 _ => some (code1, 8)
  | .subnPX code1 _ => some (code1, 9)
  | .rightnPX code1 _ => some (code1, 10)
  | .leftnPX code1 _ => some (code1, 11)
  | .jzPX code1 _ => some (code1, 12)
  | .jnzPX code1 _ => some (code1, 13)
  | .rsvx7PX code1 => some (code1, 15)

/-- The first sub-operation stands in slot 1. -/
def Packet.firstInSlotOne (p : Packet) : Bool := p.first.slot == .one

/-- A plain code in slot 1 has a sub-operation after it, a standalone extended opcode has none (R82). -/
def Packet.secondAsShapeSays (p : Packet) : Bool := p.first.asFirst.isSome == p.second.isSome

/-- The two sub-operations are read from one header byte: each says the nibble the other one is. -/
def Packet.oneHeaderByte (p : Packet) : Bool :=
  match p.second with
  | none => true
  | some i => p.first.asFirst.isSome && p.first.asFirst == i.asSecond

/-- A well-formed packet. -/
def Packet.wf (p : Packet) : Bool := p.firstInSlotOne && p.secondAsShapeSays && p.oneHeaderByte

end Sys2Proof
end

