-- ==== Sys2Proof/Decode.lean ====
section
/-! DEFINITION. The decoder (30_encoding.md sections 1 to 4, 40_fetch_decode_dispatch.md section 2), total on every list of
bytes and rejecting by name, then the encoder, from the same tables, then the host's `decodeTableWord`. -/

namespace Sys2Proof

/-! ### The header byte -/

/-- `c1 = b[7:4]` (R81). -/
def highNibble (b : Byte) : Nibble := b.extractLsb' 4 4

/-- `c2 = b[3:0]` (R81). -/
def lowNibble (b : Byte) : Nibble := b.extractLsb' 0 4

/-- The "high bit" of a nibble, value 8 (R81). -/
def nibbleHighBit (c : Nibble) : Bool := c.getLsbD 3

/-- The low three bits of a nibble (R81). -/
def nibbleCode (c : Nibble) : Code := c.extractLsb' 0 3

/-- The header byte whose high nibble is `8 * h + code` and whose low nibble is `c2` (R84 to R86). -/
def headerByte (h : Bool) (code : Code) (c2 : Nibble) : Byte := BitVec.ofBool h ++ code ++ c2

/-- The decode record of a header byte: its shape and that shape's fields (R122). -/
inductive Header where
  | x (spb : Code) (pad : Nibble)
  | px (code1 spb : Code)
  | pp (code1 : Code) (code2 : Nibble)
  deriving DecidableEq, Repr

/-- `Decode(b)`, the three tests in their order (R82, R123). -/
def decodeHeader (b : Byte) : Header :=
  let c1 := highNibble b
  let c2 := lowNibble b
  if nibbleHighBit c1 then .x (nibbleCode c1) c2
  else if nibbleHighBit c2 && nibbleCode c2 != 6 then .px (nibbleCode c1) (nibbleCode c2)
  else .pp (nibbleCode c1) c2

/-- The length of an instruction (R92). -/
def Header.length : Header → Nat
  | .x _ _ => 5
  | .px _ _ => 5
  | .pp _ _ => 1

/-! ### The operand -/

/-- Four bytes as a 32-bit value, big-endian: the first is the most significant (20_memory.md R55, R56). -/
def bigEndian (o0 o1 o2 o3 : Byte) : Word := o0 ++ o1 ++ o2 ++ o3

/-- The operand in the bytes after a header byte (R88). DEDUCED: where the buffer ends before the fourth byte the missing
bytes read as 0 here, and every meaning raises `TruncatedInstruction` before it looks at the operand (42_extended.md R171;
log 12); safe. -/
def operandOf (rest : List Byte) : Word :=
  bigEndian (rest.getD 0 0) (rest.getD 1 0) (rest.getD 2 0) (rest.getD 3 0)

/-! ### The sub-operations -/

/-- The plain code of slot 1; a three-bit code has eight values, so the last line is code 7 (R95). -/
def plainFirst (code1 : Code) (c2 : Nibble) : Instr :=
  match code1.toNat with
  | 0 => .incS1 c2
  | 1 => .decS1 c2
  | 2 => .rightS1 c2
  | 3 => .leftS1 c2
  | 4 => .rsvp4S1 c2
  | 5 => .rsvp5S1 c2
  | 6 => .outS1 c2
  | _ => .inS1 c2

/-- The plain code of slot 2 (R95); `none` for the nibbles that shape PP never has (R86, R126). -/
def plainSecond (code1 : Code) (code2 : Nibble) : Option Instr :=
  match code2.toNat with
  | 0 => some (.incS2 code1)
  | 1 => some (.decS2 code1)
  | 2 => some (.rightS2 code1)
  | 3 => some (.leftS2 code1)
  | 4 => some (.rsvp4S2 code1)
  | 5 => some (.rsvp5S2 code1)
  | 6 => some (.outS2 code1)
  | 7 => some (.inS2 code1)
  | 14 => some (.rsvpeS2 code1)
  | _ => none

/-- The extended opcode of shape X (R84, R96). -/
def extendedAlone (spb : Code) (pad : Nibble) (opnd : Word) : Instr :=
  match spb.toNat with
  | 0 => .addnX opnd
  | 1 => .subnX opnd
  | 2 => .rightnX opnd
  | 3 => .leftnX opnd
  | 4 => .jzX opnd
  | 5 => .jnzX opnd
  | 6 => .rsvx6X pad
  | _ => .rsvx7X pad

/-- The extended opcode of shape PX (R85, R96); `none` for selector 6, which shape PX never has. -/
def extendedSecond (code1 spb : Code) (opnd : Word) : Option Instr :=
  match spb.toNat with
  | 0 => some (.addnPX code1 opnd)
  | 1 => some (.subnPX code1 opnd)
  | 2 => some (.rightnPX code1 opnd)
  | 3 => some (.leftnPX code1 opnd)
  | 4 => some (.jzPX code1 opnd)
  | 5 => some (.jnzPX code1 opnd)
  | 7 => some (.rsvx7PX code1)
  | _ => none

/-! ### The decoder -/

/-- Why the decoder rejects. -/
inductive DecodeError where
  /-- There is no header byte. -/
  | noHeaderByte
  /-- The low nibble has no sub-operation of slot 2: it never happens (R83). -/
  | noSlotTwo
  deriving DecidableEq, Repr

/-- A plain code in slot 1 with what follows it, which must be there. -/
def packetOf (first : Instr) (second : Option Instr) : Except DecodeError Packet :=
  match second with
  | some i => .ok ⟨first, some i⟩
  | none => .error .noSlotTwo

/-- The instruction that starts a list of bytes: a reserved code decodes like any other and faults when it is reached
(R97, R123). -/
def decode : List Byte → Except DecodeError Packet
  | [] => .error .noHeaderByte
  | b :: rest =>
    match decodeHeader b with
    | .x spb pad => .ok ⟨extendedAlone spb pad (operandOf rest), none⟩
    | .px code1 spb => packetOf (plainFirst code1 (lowNibble b)) (extendedSecond code1 spb (operandOf rest))
    | .pp code1 code2 => packetOf (plainFirst code1 code2) (plainSecond code1 code2)

/-- The sub-operation of a slot in the instruction that starts a list of bytes. -/
def decodeAt (slot : Slot) (bytes : List Byte) : Option Instr :=
  match decode bytes with
  | .ok p => p.inSlot slot
  | .error _ => none

/-! ### The encoder -/

/-- The header byte of a sub-operation: its row's fixed bits and fields, an ignored field written 0 (R84 to R87, R95, R96). -/
def Instr.header : Instr → Byte
  | .incS1 c2 => headerByte false 0 c2
  | .decS1 c2 => headerByte false 1 c2
  | .rightS1 c2 => headerByte false 2 c2
  | .leftS1 c2 => headerByte false 3 c2
  | .rsvp4S1 c2 => headerByte false 4 c2
  | .rsvp5S1 c2 => headerByte false 5 c2
  | .outS1 c2 => headerByte false 6 c2
  | .inS1 c2 => headerByte false 7 c2
  | .incS2 code1 => headerByte false code1 0
  | .decS2 code1 => headerByte false code1 1
  | .rightS2 code1 => headerByte false code1 2
  | .leftS2 code1 => headerByte false code1 3
  | .rsvp4S2 code1 => headerByte false code1 4
  | .rsvp5S2 code1 => headerByte false code1 5
  | .outS2 code1 => headerByte false code1 6
  | .inS2 code1 => headerByte false code1 7
  | .rsvpeS2 code1 => headerByte false code1 14
  | .addnX _ => headerByte true 0 0
  | .subnX _ => headerByte true 1 0
  | .rightnX _ => headerByte true 2 0
  | .leftnX _ => headerByte true 3 0
  | .jzX _ => headerByte true 4 0
  | .jnzX _ => headerByte true 5 0
  | .rsvx6X pad => headerByte true 6 pad
  | .rsvx7X pad => headerByte true 7 pad
  | .addnPX code1 _ => headerByte false code1 8
  | .subnPX code1 _ => headerByte false code1 9
  | .rightnPX code1 _ => headerByte false code1 10
  | .leftnPX code1 _ => headerByte false code1 11
  | .jzPX code1 _ => headerByte false code1 12
  | .jnzPX code1 _ => headerByte false code1 13
  | .rsvx7PX code1 => headerByte false code1 15

/-- A 32-bit value as four bytes, the most significant first (R55, R100). -/
def operandBytes (opnd : Word) : List Byte :=
  [opnd.extractLsb' 24 8, opnd.extractLsb' 16 8, opnd.extractLsb' 8 8, opnd.extractLsb' 0 8]

/-- The bytes after the header byte that the row gives the sub-operation; the operand a reserved selector never fetches is
written 0. -/
def Instr.tail : Instr → List Byte
  | .incS1 _ | .decS1 _ | .rightS1 _ | .leftS1 _ | .rsvp4S1 _ | .rsvp5S1 _ | .outS1 _ | .inS1 _ => []
  | .incS2 _ | .decS2 _ | .rightS2 _ | .leftS2 _ | .rsvp4S2 _ | .rsvp5S2 _ | .outS2 _ | .inS2 _ | .rsvpeS2 _ => []
  | .addnX opnd | .subnX opnd | .rightnX opnd | .leftnX opnd | .jzX opnd | .jnzX opnd => operandBytes opnd
  | .rsvx6X _ | .rsvx7X _ => operandBytes 0
  | .addnPX _ opnd | .subnPX _ opnd | .rightnPX _ opnd | .leftnPX _ opnd | .jzPX _ opnd | .jnzPX _ opnd => operandBytes opnd
  | .rsvx7PX _ => operandBytes 0

/-- The bytes of a sub-operation as its row of the opcode table gives them. -/
def encode (i : Instr) : List Byte := i.header :: i.tail

/-- The bytes of a whole instruction: its last sub-operation's row spans them all (R84 to R86). -/
def encodePacket (p : Packet) : List Byte := encode (p.second.getD p.first)

/-! ### The host's view of the opcode table -/

/-- The bytes of a table word as the program stores them, bits above `nbits` 0: an instruction has at most five. -/
def tableBytes (nbits w : Nat) : List Byte :=
  let v := w % 2 ^ nbits
  [BitVec.ofNat 8 v, BitVec.ofNat 8 (v / 2 ^ 8), BitVec.ofNat 8 (v / 2 ^ 16), BitVec.ofNat 8 (v / 2 ^ 24),
    BitVec.ofNat 8 (v / 2 ^ 32)]

/-- The one of a packet's sub-operations that `decodeTableWord` answers. A header byte of the shapes PX and PP carries two
instructions (R103) and the host's word does not say which row it was made from. DESIGN CHOICE (log 5): a row of more than 8
bits is the one that owns the operand; in a row of 8 bits the free nibble of a table word is 0, which reads as `INC`, so
where slot 1 is `INC` the answer is slot 2. -/
def Packet.tableRow (p : Packet) (nbits : Nat) : Instr :=
  match p.second with
  | none => p.first
  | some i =>
    if 8 < nbits then i
    else if p.first.asFirst.map Prod.fst = some 0 then i else p.first

/-- The instruction the decoder reads from a word of the opcode table. -/
def decodeTableWord (nbits w : Nat) : Option Instr :=
  match decode (tableBytes nbits w) with
  | .ok p => some (p.tableRow nbits)
  | .error _ => none

end Sys2Proof
end

