-- ==== Sys2Proof/Config.lean ====
section
/-! DEFINITION. The parameters of spec/00_scope.md R6: what the header, the spec's decisions or the host fix once. -/

namespace Sys2Proof.Config

/-- `MAGIC_MF`, named so that a correction touches one place (93_implementation_defined.md U9). UNVERIFIED: the
literal is unaudited; unsafe if it is wrong (log 14). -/
def magicMF : Word := 0xFF6D66FD#32

/-- `MAGIC_BF` (93_implementation_defined.md U9). UNVERIFIED: the literal is unaudited; unsafe if it is wrong (log 14). -/
def magicBF : Word := 0xFF6D68FD#32

/-- `ENTRY`, the first value of `pc` (R6, R21). -/
def entry : Word := 8#32

/-- The length of the program header in bytes (R62). -/
def headerLength : Nat := 8

/-- The largest program length `L` (R6; 92_eei_decisions.md D16). -/
def maxLength : Nat := 2 ^ 31 - 1

/-- `MF_INIT_POSITION`, the cursor of a fresh MF tape. DESIGN CHOICE of the spec (92_eei_decisions.md D13, default 0);
unsafe if the MF tape starts elsewhere (log 10). -/
def mfInitPosition : Int := 0

/-- One less than `FAULT_EXIT_CODE`, with no body: nothing in the model fixes the exit code of a fault
(92_eei_decisions.md D15, OPEN; log 9). -/
opaque faultExitCodeLessOne : Nat

/-- `FAULT_EXIT_CODE`: any value other than 0 (R6; log 9). -/
def faultExitCode : Nat := faultExitCodeLessOne + 1

end Sys2Proof.Config
end

