-- ==== Sys2Proof/Machine/State.lean ====
section
/-! DEFINITION. The state of the core and of its environment as plain data (spec/10_state.md), the reasons a step can stop,
and the state after power-on. -/

namespace Sys2Proof.Machine

/-- The tape variant, chosen by the magic (R2, R25). -/
inductive Variant where
  | mf
  | bf
  deriving DecidableEq, Repr

/-- `RS` (R33). -/
inductive RunState where
  | unloaded
  | running
  | halted
  | faulted
  | loadFailed
  deriving DecidableEq, Repr

/-- `CAUSE` by name (R34; 60_exceptions.md R240); the numeric codes are `Cause.code` in Machine/Ops.lean. -/
inductive Cause where
  | none
  | fileTooSmall
  | badMagic
  | positionOutOfBounds
  | jumpTargetOutOfBounds
  | reservedEncoding
  | truncatedInstruction
  | endOfInput
  | ioFailure
  deriving DecidableEq, Repr

/-- `EXIT` by name (R38): 0, 1 and the open parameter `FAULT_EXIT_CODE`; the numbers are `ExitCode.value` in
Machine/Ops.lean (log 9). -/
inductive ExitCode where
  | success
  | loadError
  | faultExitCode
  deriving DecidableEq, Repr

/-- The written part of a memory: address and byte, addresses rising, no entry equal to what an unlisted address reads as. -/
abbrev Memory := List Host.Cell

/-- What the host chooses before a run (70_reset_and_hazards.md R300): the buffer, and the run's input and port failures, in
the form in which `State` holds them (log 6, log 7). -/
structure Presented where
  /-- `PROG` (R29, R281). -/
  prog : List Byte
  /-- `IN_STREAM` as far as the port has it when the run starts (R39). -/
  inStream : List Byte
  /-- `IN_STREAM` ends after `inStream` (R225). -/
  inEnded : Bool
  /-- The number of the run's read transaction that the port answers `fail` (R226). -/
  readFailAt : Option Nat
  /-- The number of the run's write transaction that the port answers `fail` (R223). -/
  writeFailAt : Option Nat
  deriving DecidableEq, Repr

/-- Everything the spec gives the machine, and the environment state every run depends on (R39). -/
structure State where
  /-- The run the host presents and the core has not loaded yet (R281, R300, R302; log 6). -/
  loadRequest : Option Presented
  /-- `PROG`; `L` is its length (R29). -/
  prog : List Byte
  /-- `RS` (R33). -/
  rs : RunState
  /-- `CAUSE` (R34). -/
  cause : Cause
  /-- `EXIT`; no value in `Unloaded` and `Running` (R38). -/
  exit : Option ExitCode
  /-- `pc` (R21). -/
  pc : Word
  /-- Which sub-operation of the header byte at `pc` is next: R132's one-bit record (log 4). -/
  slot : Slot
  /-- Blocked on input: `IN` has issued its read and no answer has come (R40, R133, R263). -/
  waiting : Bool
  /-- `position`, the cursor (R23; log 3). -/
  position : Int
  /-- `VARIANT` (R25). -/
  variant : Variant
  /-- `MEMSIZE` (R25). -/
  memsize : Word
  /-- `TAPE_LEN` (R25). -/
  tapeLen : Nat
  /-- The cells that differ from their load value (R24; log 13). -/
  tape : Memory
  /-- `FAULT_PC` (R35). -/
  faultPc : Word
  /-- `FAULT_SLOT` (R36). -/
  faultSlot : Fin 3
  /-- `FAULT_INFO` (R37; log 3). -/
  faultInfo : Int
  /-- `OUT_STREAM` (R39). -/
  outStream : List Byte
  /-- `IN_STREAM` as far as the port has it (R39; log 7). -/
  inStream : List Byte
  /-- `IN_STREAM` ends after `inStream` (R6, R225; log 7). -/
  inEnded : Bool
  /-- `IN_CONSUMED` (R39). -/
  inConsumed : Nat
  /-- The number of this run's read transaction, from 0, that the port answers `fail` (R221, R226; log 7). -/
  readFailAt : Option Nat
  /-- The number of this run's write transaction, from 0, that the port answers `fail` (R221, R223; log 7). -/
  writeFailAt : Option Nat
  deriving DecidableEq, Repr

/-- Why a step is not taken. None of these is a fault of the spec: those are recorded in the state (R250). -/
inductive Fault where
  /-- A step asked of a core with no program (R280). Raised by the sequencer; safe (log 15). -/
  | unloaded
  /-- A step asked after the end of the run in `Halted` (R129). Raised by the sequencer; safe (log 15). -/
  | halted
  /-- A step asked after a recorded fault (R129, R254). Raised by the sequencer; safe (log 15). -/
  | faulted
  /-- A step asked after a load error (R129, R243). Raised by the sequencer; safe (log 15). -/
  | loadFailed
  /-- A header fetch outside `8 .. L - 1`, which R72 says never happens. Raised by the sequencer; safe (log 16). -/
  | fetchOutsideProgram
  /-- Slot 2 asked of a header byte that has none, which never happens. Raised by the sequencer; safe (log 16). -/
  | noSlotTwo
  deriving DecidableEq, Repr

/-- What the model has no meaning for. -/
inductive Refusal where
  /-- An instruction with no meaning yet: raised by a refused arm of `exec`, of which there is none; safe. -/
  | notModelled (mnemonic : String)
  /-- A presented buffer longer than 2^31 - 1 bytes, outside the domain of the load (R290; 93_implementation_defined.md
  U16). Raised by the load unit; safe (log 11). -/
  | programTooLong
  deriving DecidableEq, Repr

/-- The core at power-on: `RS = Unloaded` (R41, R280). The spec gives no other register a value before a load; each value
here is a DESIGN CHOICE (log 1, log 7); unsafe, so no statement rests on one. Reset to a running state is the load,
Machine/Load.lean (R281). -/
def State.reset : State where
  loadRequest := none
  prog := []
  rs := .unloaded
  cause := .none
  exit := none
  pc := Config.entry
  slot := .one
  waiting := false
  position := 0
  variant := .bf
  memsize := 0
  tapeLen := 0
  tape := []
  faultPc := 0
  faultSlot := 0
  faultInfo := 0
  outStream := []
  inStream := []
  inEnded := false
  inConsumed := 0
  readFailAt := none
  writeFailAt := none

end Sys2Proof.Machine
end

