-- ==== Sys2Proof/Machine/Ops.lean ====
section
/-! DEFINITION. The shared operations: the numeric codes, program space, the tape's cells (43_tape_unit.md), taking a fault
(60_exceptions.md R250), and how a sub-operation and an instruction end (40_fetch_decode_dispatch.md R124). -/

namespace Sys2Proof.Machine

/-- What a meaning answers. -/
abbrev Result := Host.Outcome State Fault Refusal

/-! ### Numeric codes -/

/-- The cause codes (R240). -/
def Cause.code : Cause → Nat
  | .none => 0
  | .fileTooSmall => 1
  | .badMagic => 2
  | .positionOutOfBounds => 3
  | .jumpTargetOutOfBounds => 4
  | .reservedEncoding => 5
  | .truncatedInstruction => 6
  | .endOfInput => 7
  | .ioFailure => 8

/-- The number of an exit code (R38). -/
def ExitCode.value : ExitCode → Nat
  | .success => 0
  | .loadError => 1
  | .faultExitCode => Config.faultExitCode

/-- The number `FAULT_SLOT` records for a slot (R36). -/
def slotNumber : Slot → Fin 3
  | .one => 1
  | .two => 2

/-! ### Program space -/

/-- `L` (R6). -/
def State.len (s : State) : Nat := s.prog.length

/-- `Fetch(a)` (20_memory.md R51); `none` where no such byte exists. -/
def State.fetch (s : State) (a : Nat) : Option Byte := s.prog[a]?

/-- The bytes from offset `a` to the end of the program. -/
def State.bytesFrom (s : State) (a : Nat) : List Byte := s.prog.drop a

/-! ### Memory -/

/-- The byte at an address: the listed one, or what the address holds from the load on. -/
def Memory.read (init : Nat → Byte) : Memory → Nat → Byte
  | [], a => init a
  | (b, w) :: m, a => if b < a then Memory.read init m a else if b = a then w else init a

/-- The memory with one byte written, in canonical form: writing what an unlisted address reads as removes the entry. -/
def Memory.write (init : Nat → Byte) : Memory → Nat → Byte → Memory
  | [], a, v => if v = init a then [] else [(a, v)]
  | (b, w) :: m, a, v =>
    if b < a then (b, w) :: Memory.write init m a v
    else if b = a then (if v = init a then m else (a, v) :: m)
    else if v = init a then (b, w) :: m else (a, v) :: (b, w) :: m

/-- The canonical form: addresses strictly rising, no entry equal to what an unlisted address reads as. -/
abbrev Memory.wf (init : Nat → Byte) (m : Memory) : Prop :=
  m.Pairwise (fun c d => c.1 < d.1) ∧ ∀ c ∈ m, c.2 ≠ init c.1

/-! ### The tape -/

/-- What a cell holds after the load (10_state.md R26, R27): what an unlisted cell reads as. -/
def initCell : Variant → Nat → Byte
  | .mf, i => if 2 ≤ i ∧ i % 2 = 0 then 1 else 0
  | .bf, _ => 0

/-- `TAPE_LEN` of a header (R26, R27), with no truncation (R25). -/
def tapeLength : Variant → Word → Nat
  | .mf, memsize => 2 * memsize.toNat + 8
  | .bf, memsize => memsize.toNat

/-- The cell exists: the bound check of every access (R24, R203). -/
abbrev State.inTape (s : State) (addr : Int) : Prop := 0 ≤ addr ∧ addr < s.tapeLen

/-- The value of cell `i`. -/
def State.cell (s : State) (i : Nat) : Byte := Memory.read (initCell s.variant) s.tape i

/-- `MemRead(addr, 1)`; `none` where it raises `PositionOutOfBounds` (R201, R203). -/
def State.memRead (s : State) (addr : Int) : Option Byte :=
  if s.inTape addr then some (s.cell addr.toNat) else none

/-- `MemWrite(position, 1, v)`, once the bound check of R203 has been passed (R202). -/
def State.setCell (s : State) (v : Byte) : State :=
  { s with tape := Memory.write (initCell s.variant) s.tape s.position.toNat v }

/-- `advance(n)` for a positive and `retreat(n)` for a negative number: exact, unchecked (R207, R208, R210). -/
def State.moveCursor (s : State) (n : Int) : State := { s with position := s.position + n }

/-! ### Taking a fault -/

/-- `raise F(info)` in a slot: six registers are written and nothing else (R250). There is no handler and no return from it
(R254); only a load leaves `Faulted`. -/
def State.raise (s : State) (cause : Cause) (slot : Slot) (info : Int) : State :=
  { s with
    cause := cause
    faultPc := s.pc
    faultSlot := slotNumber slot
    faultInfo := info
    exit := some .faultExitCode
    rs := .faulted }

/-! ### How a sub-operation ends -/

/-- Slot 1 of a header byte is done and slot 2 is next: `pc` stays (R125, R131, R132). -/
def State.toSlotTwo (s : State) : State := { s with slot := .two }

/-- The instruction is done: `pc` is written, once, and the halt test is made (R124, R130, R131). -/
def State.endInstr (s : State) (newPc : Word) : State :=
  { s with
    pc := newPc
    slot := .one
    rs := if s.len ≤ newPc.toNat then .halted else s.rs
    exit := if s.len ≤ newPc.toNat then some .success else s.exit }

/-- A plain code is done: in slot 1 slot 2 comes next, in slot 2 (shape PP) the 1-byte instruction ends (R22, R124). -/
def State.plainDone (s : State) : Slot → State
  | .one => s.toSlotTwo
  | .two => s.endInstr (s.pc + 1)

/-- A sub-operation that needs the current cell: the bound check, then what it does with the value (R203, R252). -/
def onCell (slot : Slot) (s : State) (k : Byte → Result) : Result :=
  match s.memRead s.position with
  | some v => k v
  | none => .next (s.raise .positionOutOfBounds slot s.position)

/-- An extended opcode with a defined selector: the truncation check, then what it does (R128, R171). -/
def onOperand (slot : Slot) (s : State) (k : Result) : Result :=
  if s.len ≤ s.pc.toNat + 4 then .next (s.raise .truncatedInstruction slot s.len) else k

/-- A reserved code is reached: `ReservedEncoding` with the header byte (R97, R246). -/
def reserved (slot : Slot) (header : Byte) (s : State) : Result :=
  .next (s.raise .reservedEncoding slot header.toNat)

end Sys2Proof.Machine
end

