-- ==== Sys2Proof/Machine/Extended.lean ====
section
/-! DEFINITION. The extended opcodes (spec/42_extended.md): one shared operation for each opcode, one meaning for each place
it stands in. All end the instruction, in shape X as slot 1 and in shape PX as slot 2. -/

namespace Sys2Proof.Machine

/-! ### The operations -/

/-- `ADDN n` (R173), `increment(n)` (R204). -/
def opAddn (slot : Slot) (opnd : Word) (s : State) : Result :=
  onOperand slot s <| onCell slot s fun v => .next ((s.setCell (v + lowByte opnd)).endInstr (s.pc + 5))

/-- `SUBN n` (R174), `decrement(n)` (R205). -/
def opSubn (slot : Slot) (opnd : Word) (s : State) : Result :=
  onOperand slot s <| onCell slot s fun v => .next ((s.setCell (v - lowByte opnd)).endInstr (s.pc + 5))

/-- `RIGHTN m` (R175), `advance(m)` (R207). -/
def opRightn (slot : Slot) (opnd : Word) (s : State) : Result :=
  onOperand slot s <| .next ((s.moveCursor (magnitude opnd)).endInstr (s.pc + 5))

/-- `LEFTN m` (R176), `retreat(m)` (R208). -/
def opLeftn (slot : Slot) (opnd : Word) (s : State) : Result :=
  onOperand slot s <| .next ((s.moveCursor (-(magnitude opnd : Int))).endInstr (s.pc + 5))

/-- A taken jump: the target is checked, then written (R183). -/
def jumpTo (slot : Slot) (t : Int) (s : State) : Result :=
  if t < 8 ∨ (s.len : Int) < t then .next (s.raise .jumpTargetOutOfBounds slot t)
  else .next (s.endInstr (BitVec.ofInt 32 t))

/-- `JZ t` (R177): the cell is read whether or not the jump is taken (R181). -/
def opJz (slot : Slot) (opnd : Word) (s : State) : Result :=
  onOperand slot s <| onCell slot s fun v =>
    if isZero v then jumpTo slot (target opnd) s else .next (s.endInstr (s.pc + 5))

/-- `JNZ t` (R178). -/
def opJnz (slot : Slot) (opnd : Word) (s : State) : Result :=
  onOperand slot s <| onCell slot s fun v =>
    if isNonzero v then jumpTo slot (target opnd) s else .next (s.endInstr (s.pc + 5))

/-! ### Shape X -/

/-- `ADDN` alone (R173). -/
def execAddnX (opnd : Word) (s : State) : Result := opAddn .one opnd s

/-- `SUBN` alone (R174). -/
def execSubnX (opnd : Word) (s : State) : Result := opSubn .one opnd s

/-- `RIGHTN` alone (R175). -/
def execRightnX (opnd : Word) (s : State) : Result := opRightn .one opnd s

/-- `LEFTN` alone (R176). -/
def execLeftnX (opnd : Word) (s : State) : Result := opLeftn .one opnd s

/-- `JZ` alone (R177). -/
def execJzX (opnd : Word) (s : State) : Result := opJz .one opnd s

/-- `JNZ` alone (R178). -/
def execJnzX (opnd : Word) (s : State) : Result := opJnz .one opnd s

/-- `RSVX6`, the reserved selector 6 (R179): it comes before the truncation check (R252). -/
def execRsvx6X (pad : Nibble) (s : State) : Result := reserved .one (Instr.rsvx6X pad).header s

/-- `RSVX7`, the reserved selector 7 (R179). -/
def execRsvx7X (pad : Nibble) (s : State) : Result := reserved .one (Instr.rsvx7X pad).header s

/-! ### Shape PX, slot 2 -/

/-- `ADDN` after a plain code (R173). -/
def execAddnPX (opnd : Word) (s : State) : Result := opAddn .two opnd s

/-- `SUBN` after a plain code (R174). -/
def execSubnPX (opnd : Word) (s : State) : Result := opSubn .two opnd s

/-- `RIGHTN` after a plain code (R175). -/
def execRightnPX (opnd : Word) (s : State) : Result := opRightn .two opnd s

/-- `LEFTN` after a plain code (R176). -/
def execLeftnPX (opnd : Word) (s : State) : Result := opLeftn .two opnd s

/-- `JZ` after a plain code (R177). -/
def execJzPX (opnd : Word) (s : State) : Result := opJz .two opnd s

/-- `JNZ` after a plain code (R178). -/
def execJnzPX (opnd : Word) (s : State) : Result := opJnz .two opnd s

/-- `RSVX7` after a plain code (R179): slot 1 has been performed and stays. -/
def execRsvx7PX (code1 : Code) (s : State) : Result := reserved .two (Instr.rsvx7PX code1).header s

end Sys2Proof.Machine
end

