-- ==== Sys2Proof/Machine/Port.lean ====
section
/-! DEFINITION. The I/O port (spec/44_io_port.md): the answers of its two transactions and what they change. -/

namespace Sys2Proof.Machine

/-- The answers to `IoWrite` (R221). -/
inductive WriteAnswer where
  | ok
  | fail
  deriving DecidableEq, Repr

/-- The answers to `IoRead` (R221); `pending` is "no response yet". -/
inductive ReadAnswer where
  | byte (v : Byte)
  | eof
  | fail
  | pending
  deriving DecidableEq, Repr

/-- The answer to the next `IoWrite`: number `len(OUT_STREAM)` of the run, since only a run's last write can fail (R222,
R223; log 7). -/
def State.writeAnswer (s : State) : WriteAnswer :=
  if s.writeFailAt = some s.outStream.length then .fail else .ok

/-- The answer to the next `IoRead`: number `IN_CONSUMED` of the run, for the same reason (R224 to R226; log 7). -/
def State.readAnswer (s : State) : ReadAnswer :=
  if s.readFailAt = some s.inConsumed then .fail
  else
    match s.inStream[s.inConsumed]? with
    | some v => .byte v
    | none => if s.inEnded then .eof else .pending

/-- `IoWrite(v)` answered `ok`: one byte is appended (R222). -/
def State.emit (s : State) (v : Byte) : State := { s with outStream := s.outStream ++ [v] }

/-- `IoRead()` answered with a byte: it is consumed and the wait, if any, is over (R224, R263). -/
def State.consume (s : State) : State := { s with inConsumed := s.inConsumed + 1, waiting := false }

/-- `IoRead()` answered `eof` or `fail`: nothing is consumed and the wait, if any, is over (R225, R226, R263). -/
def State.unblock (s : State) : State := { s with waiting := false }

/-- `IoRead()` not answered yet: the core waits inside the step and nothing else changes (R133, R263; log 8). -/
def State.block (s : State) : State := { s with waiting := true }

end Sys2Proof.Machine
end

