-- ==== Sys2Proof/Machine/Plain.lean ====
section
/-! DEFINITION. The plain control codes (spec/41_plain_control.md): one shared operation for each code, one meaning for each
place it stands in. -/

namespace Sys2Proof.Machine

/-! ### The operations -/

/-- `INC` (R151), `increment(1)` (R204). -/
def opInc (slot : Slot) (s : State) : Result :=
  onCell slot s fun v => .next ((s.setCell (v + 1)).plainDone slot)

/-- `DEC` (R152), `decrement(1)` (R205). -/
def opDec (slot : Slot) (s : State) : Result :=
  onCell slot s fun v => .next ((s.setCell (v - 1)).plainDone slot)

/-- `RIGHT` (R153), `advance(1)` (R207): no check, no access. -/
def opRight (slot : Slot) (s : State) : Result := .next ((s.moveCursor 1).plainDone slot)

/-- `LEFT` (R154), `retreat(1)` (R208): no check, no access. -/
def opLeft (slot : Slot) (s : State) : Result := .next ((s.moveCursor (-1)).plainDone slot)

/-- `OUT` (R155): the cell, then the port (R222, R223). -/
def opOut (slot : Slot) (s : State) : Result :=
  onCell slot s fun v =>
    match s.writeAnswer with
    | .ok => .next ((s.emit v).plainDone slot)
    | .fail => .next (s.raise .ioFailure slot 0)

/-- `IN` (R156): the cursor is checked before the port is touched; a byte is stored, an end or a failure is a fault, and no
answer is a wait (R224 to R226, R133). -/
def opIn (slot : Slot) (s : State) : Result :=
  onCell slot s fun _ =>
    match s.readAnswer with
    | .byte v => .next ((s.consume.setCell v).plainDone slot)
    | .eof => .next (s.unblock.raise .endOfInput slot 0)
    | .fail => .next (s.unblock.raise .ioFailure slot 0)
    | .pending => .next s.block

/-! ### Slot 1 -/

/-- `INC` in slot 1 (R151). -/
def execIncS1 (s : State) : Result := opInc .one s

/-- `DEC` in slot 1 (R152). -/
def execDecS1 (s : State) : Result := opDec .one s

/-- `RIGHT` in slot 1 (R153). -/
def execRightS1 (s : State) : Result := opRight .one s

/-- `LEFT` in slot 1 (R154). -/
def execLeftS1 (s : State) : Result := opLeft .one s

/-- `RSVP4` in slot 1 (R157): the low nibble is not examined, it is only part of the header byte recorded. -/
def execRsvp4S1 (c2 : Nibble) (s : State) : Result := reserved .one (Instr.rsvp4S1 c2).header s

/-- `RSVP5` in slot 1 (R157). -/
def execRsvp5S1 (c2 : Nibble) (s : State) : Result := reserved .one (Instr.rsvp5S1 c2).header s

/-- `OUT` in slot 1 (R155). -/
def execOutS1 (s : State) : Result := opOut .one s

/-- `IN` in slot 1 (R156). -/
def execInS1 (s : State) : Result := opIn .one s

/-! ### Slot 2 -/

/-- `INC` in slot 2 (R151). -/
def execIncS2 (s : State) : Result := opInc .two s

/-- `DEC` in slot 2 (R152). -/
def execDecS2 (s : State) : Result := opDec .two s

/-- `RIGHT` in slot 2 (R153). -/
def execRightS2 (s : State) : Result := opRight .two s

/-- `LEFT` in slot 2 (R154). -/
def execLeftS2 (s : State) : Result := opLeft .two s

/-- `RSVP4` in slot 2 (R157): slot 1 has been performed and stays. -/
def execRsvp4S2 (code1 : Code) (s : State) : Result := reserved .two (Instr.rsvp4S2 code1).header s

/-- `RSVP5` in slot 2 (R157). -/
def execRsvp5S2 (code1 : Code) (s : State) : Result := reserved .two (Instr.rsvp5S2 code1).header s

/-- `OUT` in slot 2 (R155). -/
def execOutS2 (s : State) : Result := opOut .two s

/-- `IN` in slot 2 (R156). -/
def execInS2 (s : State) : Result := opIn .two s

/-- `RSVPE`, the reserved value 14 of slot 2 (R158). -/
def execRsvpeS2 (code1 : Code) (s : State) : Result := reserved .two (Instr.rsvpeS2 code1).header s

end Sys2Proof.Machine
end

