-- ==== Sys2Proof/Machine/Dispatch.lean ====
section
/-! DEFINITION. `exec`: the meaning of each instruction, one arm per constructor of `Instr`. -/

namespace Sys2Proof.Machine

/-- `ExecPlain` and `ExecExt` (40_fetch_decode_dispatch.md R126, R128). -/
def exec (i : Instr) (s : State) : Host.Outcome State Fault Refusal :=
  match i with
  | .incS1 _ => Sys2Proof.Machine.execIncS1 s
  | .decS1 _ => Sys2Proof.Machine.execDecS1 s
  | .rightS1 _ => Sys2Proof.Machine.execRightS1 s
  | .leftS1 _ => Sys2Proof.Machine.execLeftS1 s
  | .rsvp4S1 c2 => Sys2Proof.Machine.execRsvp4S1 c2 s
  | .rsvp5S1 c2 => Sys2Proof.Machine.execRsvp5S1 c2 s
  | .outS1 _ => Sys2Proof.Machine.execOutS1 s
  | .inS1 _ => Sys2Proof.Machine.execInS1 s
  | .incS2 _ => Sys2Proof.Machine.execIncS2 s
  | .decS2 _ => Sys2Proof.Machine.execDecS2 s
  | .rightS2 _ => Sys2Proof.Machine.execRightS2 s
  | .leftS2 _ => Sys2Proof.Machine.execLeftS2 s
  | .rsvp4S2 code1 => Sys2Proof.Machine.execRsvp4S2 code1 s
  | .rsvp5S2 code1 => Sys2Proof.Machine.execRsvp5S2 code1 s
  | .outS2 _ => Sys2Proof.Machine.execOutS2 s
  | .inS2 _ => Sys2Proof.Machine.execInS2 s
  | .rsvpeS2 code1 => Sys2Proof.Machine.execRsvpeS2 code1 s
  | .addnX opnd => Sys2Proof.Machine.execAddnX opnd s
  | .subnX opnd => Sys2Proof.Machine.execSubnX opnd s
  | .rightnX opnd => Sys2Proof.Machine.execRightnX opnd s
  | .leftnX opnd => Sys2Proof.Machine.execLeftnX opnd s
  | .jzX opnd => Sys2Proof.Machine.execJzX opnd s
  | .jnzX opnd => Sys2Proof.Machine.execJnzX opnd s
  | .rsvx6X pad => Sys2Proof.Machine.execRsvx6X pad s
  | .rsvx7X pad => Sys2Proof.Machine.execRsvx7X pad s
  | .addnPX _ opnd => Sys2Proof.Machine.execAddnPX opnd s
  | .subnPX _ opnd => Sys2Proof.Machine.execSubnPX opnd s
  | .rightnPX _ opnd => Sys2Proof.Machine.execRightnPX opnd s
  | .leftnPX _ opnd => Sys2Proof.Machine.execLeftnPX opnd s
  | .jzPX _ opnd => Sys2Proof.Machine.execJzPX opnd s
  | .jnzPX _ opnd => Sys2Proof.Machine.execJnzPX opnd s
  | .rsvx7PX code1 => Sys2Proof.Machine.execRsvx7PX code1 s

end Sys2Proof.Machine
end

