-- ==== Sys2Proof/Machine/Load.lean ====
section
/-! DEFINITION. The load unit: reset of this machine is the load of a program buffer (spec/70_reset_and_hazards.md section
1). -/

namespace Sys2Proof.Machine

/-- `Fetch32(a)` of a buffer (20_memory.md R56); read only where all four bytes exist. -/
def fetch32 (buffer : List Byte) (a : Nat) : Word :=
  bigEndian (buffer.getD a 0) (buffer.getD (a + 1) 0) (buffer.getD (a + 2) 0) (buffer.getD (a + 3) 0)

/-- The variant a magic selects (R283); `none` for a bad magic (R242). -/
def variantOf (magic : Word) : Option Variant :=
  if magic = Config.magicMF then some .mf
  else if magic = Config.magicBF then some .bf
  else none

/-- The cursor of a fresh tape (10_state.md R28). -/
def initPosition : Variant → Int
  | .mf => Config.mfInitPosition
  | .bf => 0

/-- A core as at power-on, with the presented run's input and port failures: nothing of an earlier run survives a load (R42,
R302), and the host has chosen the new one's environment (R300; log 20). -/
def Presented.fresh (run : Presented) : State :=
  { State.reset with
    inStream := run.inStream
    inEnded := run.inEnded
    readFailAt := run.readFailAt
    writeFailAt := run.writeFailAt }

/-- `fail C` of the load (R287). DESIGN CHOICE: the registers the spec leaves unspecified after a failed load have their
power-on values (10_state.md R41; log 2); unsafe, so no statement rests on them. -/
def loadFail (cause : Cause) (run : Presented) : State :=
  { run.fresh with rs := .loadFailed, cause := cause, exit := some .loadError }

/-- Steps 3 to 5 of the load, for a buffer with a good magic (R284 to R286). -/
def loadGood (variant : Variant) (run : Presented) : State :=
  let memsize := fetch32 run.prog 4
  { run.fresh with
    prog := run.prog
    variant := variant
    memsize := memsize
    tapeLen := tapeLength variant memsize
    tape := []
    position := initPosition variant
    pc := Config.entry
    cause := .none
    faultPc := 0
    faultSlot := 0
    faultInfo := 0
    outStream := []
    inConsumed := 0
    rs := if run.prog.length ≤ Config.entry.toNat then .halted else .running
    exit := if run.prog.length ≤ Config.entry.toNat then some .success else none }

/-- `Load(PROG, L)`: length, magic, size, tape and registers, halt test (R282 to R287). It does not look at the core it
loads. A buffer of 2^31 bytes or more is outside its domain and is refused (R290; 93_implementation_defined.md U16; log 11). -/
def load (run : Presented) : Result :=
  if Config.maxLength < run.prog.length then .refused .programTooLong
  else if run.prog.length < Config.headerLength then .next (loadFail .fileTooSmall run)
  else
    match variantOf (fetch32 run.prog 0) with
    | none => .next (loadFail .badMagic run)
    | some variant => .next (loadGood variant run)

end Sys2Proof.Machine
end

