-- ==== Sys2Proof/Machine/Sequencer.lean ====
section
/-! DEFINITION. The sequencer: fetch, decode and dispatch (spec/40_fetch_decode_dispatch.md sections 3 and 4), and the load
of a buffer the host presents. -/

namespace Sys2Proof.Machine

/-- The instruction at `pc` (R121, R123). -/
def State.instructionAtPc (s : State) : Except DecodeError Packet := decode (s.bytesFrom s.pc.toNat)

/-- Slot 2 of a packet. -/
def runSecond (p : Packet) (s : State) : Result :=
  match p.second with
  | some i => exec i s
  | none => .fault .noSlotTwo

/-- What follows slot 1: slot 2, if slot 1 was a plain code that completed. After a standalone extended opcode the
instruction is over, after a fault nothing runs (R250), and while `IN` waits the step holds (R133). -/
def afterFirst (p : Packet) : Result → Result
  | .next s =>
    match s.slot with
    | .one => .next s
    | .two => runSecond p s
  | .fault r => .fault r
  | .refused r => .refused r

/-- The sub-operations of a packet that are still to run (R124); a step after a wait in slot 2 takes up slot 2 (R133). -/
def runPacket (p : Packet) (s : State) : Result :=
  match s.slot with
  | .one => afterFirst p (exec p.first s)
  | .two => runSecond p s

/-- `Step()` of a core in `Running` (R124): the header byte is fetched only in `8 .. L - 1` (20_memory.md R72). -/
def stepRunning (s : State) : Result :=
  if s.pc.toNat < Config.headerLength then .fault .fetchOutsideProgram
  else
    match s.instructionAtPc with
    | .error .noHeaderByte => .fault .fetchOutsideProgram
    | .error .noSlotTwo => .fault .noSlotTwo
    | .ok p => runPacket p s

/-- One step: a presented buffer is loaded, from any run state (R281, R302; log 6); else a running core steps, and in the
other run states no step is taken (R129, R280; log 15). -/
def sequenceStep (s : State) : Result :=
  match s.loadRequest with
  | some run => load run
  | none =>
    match s.rs with
    | .unloaded => .fault .unloaded
    | .running => stepRunning s
    | .halted => .fault .halted
    | .faulted => .fault .faulted
    | .loadFailed => .fault .loadFailed

/-! ### A program for one instruction -/

/-- A header for `placeWord`: the BF variant with one cell. DESIGN CHOICE (log 6). -/
def oneCellHeader : List Byte := [0xFF, 0x6D, 0x68, 0xFD, 0, 0, 0, 1]

/-- The bytes stored where the next header byte is fetched. In a running core they replace the program's bytes at `pc`; else
they are a fresh program, loaded, since only a load makes the core run (log 6). -/
def placeWord (s : State) (bytes : List Byte) : State :=
  if s.rs = .running ∧ Config.headerLength ≤ s.pc.toNat ∧ s.pc.toNat ≤ s.len then
    { s with
      loadRequest := none
      slot := .one
      waiting := false
      prog := s.prog.take s.pc.toNat ++ bytes ++ s.prog.drop (s.pc.toNat + bytes.length) }
  else
    loadGood .bf
      { prog := oneCellHeader ++ bytes
        inStream := s.inStream
        inEnded := s.inEnded
        readFailAt := s.readFailAt
        writeFailAt := s.writeFailAt }

end Sys2Proof.Machine
end

