-- ==== Sys2Proof/Machine/Step.lean ====
section
/-! DEFINITION. One step of the machine, and the host's way to place one instruction. -/

namespace Sys2Proof.Machine

/-- One step (40_fetch_decode_dispatch.md R124, R129; 70_reset_and_hazards.md R302). -/
def step (s : State) : Host.Outcome State Fault Refusal := sequenceStep s

/-- A table word stored where the next instruction is fetched, in a core ready to run it (log 6). -/
def State.withFetchWord (s : State) (nbits w : Nat) : State := placeWord s (tableBytes nbits w)

end Sys2Proof.Machine
end

