-- ==== Sys2Proof/Machine/HostPort.lean ====
section
/-! DEFINITION. The host's side (spec/70_reset_and_hazards.md section 5, R300): its moves as functions on the state, what it
reads after a run (00_scope.md R10, 60_exceptions.md R253), and the wrapper's contract (R297 to R299). -/

namespace Sys2Proof.Machine

/-- What the host and its streams may do between two steps (R300). -/
inductive HostMove where
  /-- Present a run, any buffer with any input (R300), which starts a load (R281). The other moves act on the run that the
  core is in, not on one presented and not loaded yet. -/
  | present (run : Presented)
  /-- Deliver input bytes (R224). -/
  | deliver (bytes : List Byte)
  /-- End the input stream (R225). -/
  | endInput
  /-- Answer `fail` to the read after the next `served` ones (R226); with 0, to the next or outstanding one. -/
  | failRead (served : Nat)
  /-- Answer `fail` to the write after the next `served` ones (R223). -/
  | failWrite (served : Nat)
  deriving DecidableEq, Repr

/-- The state after a move of the host: it changes only the environment's fields; an ended stream delivers nothing more. -/
def State.afterHost (s : State) : HostMove → State
  | .present run => { s with loadRequest := some run }
  | .deliver bytes => if s.inEnded then s else { s with inStream := s.inStream ++ bytes }
  | .endInput => { s with inEnded := true }
  | .failRead served => { s with readFailAt := some (s.inConsumed + served) }
  | .failWrite served => { s with writeFailAt := some (s.outStream.length + served) }

/-- What the host can read after a run, less the tape (R10, R253, R300). -/
structure Report where
  rs : RunState
  causeCode : Nat
  faultPc : Word
  faultSlot : Fin 3
  faultInfo : Int
  exitCode : Option Nat
  outStream : List Byte
  inConsumed : Nat
  deriving DecidableEq, Repr

/-- The report of a state. -/
def State.report (s : State) : Report where
  rs := s.rs
  causeCode := s.cause.code
  faultPc := s.faultPc
  faultSlot := s.faultSlot
  faultInfo := s.faultInfo
  exitCode := s.exit.map ExitCode.value
  outStream := s.outStream
  inConsumed := s.inConsumed

/-- The bytes of a message. PRESUMED: the texts are ASCII and `\n` is the byte 0x0A (93_implementation_defined.md G3; log
18). -/
def messageBytes (text : String) : List Byte := text.toList.map fun c => BitVec.ofNat 8 c.toNat

/-- The wrapper's message when it has no buffer to present (R297): the core is never loaded. -/
def missingArgument : List Byte := messageBytes "You must supply a filename\n"

/-- The wrapper's diagnostic of a load error (R298); it has none for a fault (R299). -/
def diagnostic : Cause → List Byte
  | .fileTooSmall => messageBytes "Invalid MF binary(file too small)\n"
  | .badMagic => messageBytes "Invalid MF binary(magic mismatch)\n"
  | .none | .positionOutOfBounds | .jumpTargetOutOfBounds | .reservedEncoding | .truncatedInstruction | .endOfInput
  | .ioFailure => []

/-- What the process has written to standard output: the program's output, or the diagnostic of a load error, on the same
stream (44_io_port.md R227). -/
def State.standardOutput (s : State) : List Byte := s.outStream ++ diagnostic s.cause

end Sys2Proof.Machine
end

