-- ==== Sys2Proof/Safety.lean ====
section
/-! DEFINITION. The terms the statements use: how a run ends, the invariant of every state, and what it means that a
sub-operation ended, raised, or left something as it was. -/

namespace Sys2Proof.Machine

/-! ### How a run ends -/

/-- The run has ended (70_reset_and_hazards.md R301). -/
def State.ended (s : State) : Bool :=
  match s.rs with
  | .halted | .faulted | .loadFailed => true
  | .unloaded | .running => false

/-- The run has ended well: in `Halted` with no fault recorded (60_exceptions.md R254, R301). -/
abbrev State.endedWell (s : State) : Prop := s.rs = .halted ∧ s.cause = .none

/-- A load has succeeded and its run goes on or is over. -/
abbrev State.loaded (s : State) : Prop := s.rs = .running ∨ s.rs = .halted ∨ s.rs = .faulted

/-! ### The invariant -/

/-- The tape is in canonical form and lists existing cells only (10_state.md R24). -/
abbrev State.tapeWf (s : State) : Prop :=
  Memory.wf (initCell s.variant) s.tape ∧ ∀ c ∈ s.tape, c.1 < s.tapeLen

/-- Where `pc` can be (R44), in a program no longer than the load accepts. -/
abbrev State.pcWf (s : State) : Prop :=
  (s.rs = .running ∨ s.rs = .faulted → 8 ≤ s.pc.toNat ∧ s.pc.toNat < s.len) ∧
  (s.rs = .halted → 8 ≤ s.pc.toNat ∧ s.pc.toNat = s.len) ∧
  (s.loaded → s.len ≤ Config.maxLength)

/-- Slot 2 is next only in a header byte that has one. -/
abbrev State.slotWf (s : State) : Prop :=
  s.slot = .two →
    (s.rs = .running ∨ s.rs = .faulted) ∧ (decodeAt .two (s.bytesFrom s.pc.toNat)).isSome = true

/-- The configuration registers are those of the program's header (R25). -/
abbrev State.configWf (s : State) : Prop :=
  s.loaded →
    variantOf (fetch32 s.prog 0) = some s.variant ∧ s.memsize = fetch32 s.prog 4 ∧
      s.tapeLen = tapeLength s.variant s.memsize

/-- `CAUSE` agrees with `RS` (R33, R34, R240). -/
abbrev State.causeWf (s : State) : Prop :=
  (s.rs = .unloaded ∨ s.rs = .running ∨ s.rs = .halted → s.cause.code = 0) ∧
  (s.rs = .loadFailed → s.cause.code = 1 ∨ s.cause.code = 2) ∧
  (s.rs = .faulted → 3 ≤ s.cause.code)

/-- The fault registers are 0 but after a fault, and then `FAULT_PC` is `pc` and `FAULT_SLOT` names a slot (R35 to R37). -/
abbrev State.faultWf (s : State) : Prop :=
  (s.rs = .faulted → s.faultPc = s.pc ∧ s.faultSlot ≠ 0) ∧
  (s.rs ≠ .faulted → s.faultPc = 0 ∧ s.faultSlot = 0 ∧ s.faultInfo = 0)

/-- `EXIT` agrees with `RS` (R38). -/
abbrev State.exitWf (s : State) : Prop :=
  (s.rs = .unloaded ∨ s.rs = .running → s.exit = none) ∧
  (s.rs = .halted → s.exit = some .success) ∧
  (s.rs = .loadFailed → s.exit = some .loadError) ∧
  (s.rs = .faulted → s.exit = some .faultExitCode)

/-- No more input is consumed than there is (44_io_port.md R224), and a core waits only in `Running`, at an `IN` whose cursor
has been checked (R40, R156). -/
abbrev State.inputWf (s : State) : Prop :=
  s.inConsumed ≤ s.inStream.length ∧
  (s.waiting = true → s.rs = .running ∧ s.inTape s.position ∧
    (decodeAt s.slot (s.bytesFrom s.pc.toNat)).map Instr.op = some .input)

/-- The invariant every step keeps. -/
abbrev State.Inv (s : State) : Prop :=
  s.tapeWf ∧ s.pcWf ∧ s.slotWf ∧ s.configWf ∧ s.causeWf ∧ s.faultWf ∧ s.exitWf ∧ s.inputWf

/-- How far outside the tape the cursor can be at this point of the program, times 5: five bytes of program move it by at
most 2^31 + 1, and slot 1 of the header byte at `pc` may have moved it by 1 (R45). -/
def State.cursorSlack (s : State) : Int :=
  ((s.pc.toNat : Int) - 8) * (2 ^ 31 + 1) + (if s.slot = .two then 5 else 0)

/-- The cursor is no further from the tape than that: every jump accesses a cell and so finds it inside (R45). -/
abbrev State.cursorWf (s : State) : Prop :=
  s.loaded → -s.cursorSlack ≤ 5 * s.position ∧ 5 * s.position ≤ 5 * s.tapeLen + s.cursorSlack

/-! ### What a sub-operation leaves as it was -/

/-- The program, the configuration registers and the environment's own fields: no instruction writes them. -/
abbrev SameSetup (s t : State) : Prop :=
  t.loadRequest = s.loadRequest ∧ t.prog = s.prog ∧ t.variant = s.variant ∧ t.memsize = s.memsize ∧
  t.tapeLen = s.tapeLen ∧ t.inStream = s.inStream ∧ t.inEnded = s.inEnded ∧ t.readFailAt = s.readFailAt ∧
  t.writeFailAt = s.writeFailAt

/-- `CAUSE`, `FAULT_PC`, `FAULT_SLOT`, `FAULT_INFO`. -/
abbrev SameFaultRegisters (s t : State) : Prop :=
  t.cause = s.cause ∧ t.faultPc = s.faultPc ∧ t.faultSlot = s.faultSlot ∧ t.faultInfo = s.faultInfo

/-- `OUT_STREAM`, `IN_CONSUMED` and the wait. -/
abbrev SamePort (s t : State) : Prop :=
  t.outStream = s.outStream ∧ t.inConsumed = s.inConsumed ∧ t.waiting = s.waiting

/-- Every cell. -/
abbrev SameTape (s t : State) : Prop := ∀ a, t.cell a = s.cell a

/-- Every cell but the one at an address. -/
abbrev SameTapeBut (addr : Int) (s t : State) : Prop := ∀ a : Nat, (a : Int) ≠ addr → t.cell a = s.cell a

/-! ### How a sub-operation ended -/

/-- The instruction ended with `pc` at `newPc`, and the halt test was made (R124). -/
abbrev Ended (newPc : Word) (s t : State) : Prop :=
  t.pc = newPc ∧ t.slot = .one ∧
  (if s.len ≤ newPc.toNat then t.rs = .halted ∧ t.exit = some .success else t.rs = s.rs ∧ t.exit = s.exit)

/-- A plain code ended: slot 1 leaves `pc` and goes on to slot 2, slot 2 ends the 1-byte instruction (R22, R124). -/
abbrev PlainEnded (slot : Slot) (s t : State) : Prop :=
  match slot with
  | .one => t.pc = s.pc ∧ t.slot = .two ∧ t.rs = s.rs ∧ t.exit = s.exit
  | .two => Ended (s.pc + 1) s t

/-- A sub-operation ended: an extended opcode falls through to the instruction after its five bytes (R22, R124). -/
abbrev FellThrough (i : Instr) (s t : State) : Prop :=
  match i.opnd with
  | none => PlainEnded i.slot s t
  | some _ => Ended (s.pc + 5) s t

/-- The operand of a sub-operation that has one is wholly inside the program (20_memory.md R72, R171). -/
abbrev OperandInside (i : Instr) (s : State) : Prop := i.opnd.isSome = true → s.pc.toNat + 4 < s.len

/-- The 32 bits as a two's complement number (30_encoding.md R91). -/
abbrev signedValue (w : Word) : Int := if w.toNat < 2 ^ 31 then (w.toNat : Int) else (w.toNat : Int) - 2 ^ 32

/-- A fault was recorded and nothing but the six registers of R250 changed; `waits` is what is left of the wait. -/
abbrev Raised (cause : Cause) (slot : Slot) (info : Int) (waits : Bool) (s t : State) : Prop :=
  t.cause = cause ∧ t.faultPc = s.pc ∧ t.faultSlot.val = (match slot with | .one => 1 | .two => 2) ∧
  t.faultInfo = info ∧ t.exit = some .faultExitCode ∧ t.rs = .faulted ∧
  t.pc = s.pc ∧ t.slot = s.slot ∧ t.position = s.position ∧ SameTape s t ∧
  t.outStream = s.outStream ∧ t.inConsumed = s.inConsumed ∧ t.waiting = waits ∧ SameSetup s t

end Sys2Proof.Machine
end

