-- ==== Sys2Proof/Certificates/Slice0/Obligations.lean ====
section
/-! DEFINITION. The statements for the provers. Each docstring names the rule of spec/ it formalises; where it rests on a
decision or an inference that the spec marks as its own, or on a choice of the model, it says so. -/

open Sys2Proof Sys2Proof.Machine

/-! ### Encoding -/

/-- Words written out from the encoding tables decode to what they stand for (95_test_vectors.md section 2.1; 30_encoding.md
R84 to R86, R95, R96). -/
def Obligations.WordsOfEachFormatDecode : Prop :=
  decode [0b01100110#8] = .ok ⟨.outS1 6, some (.outS2 6)⟩ ∧
  decode [0b00010010#8] = .ok ⟨.decS1 2, some (.rightS2 1)⟩ ∧
  decode [0b01001110#8] = .ok ⟨.rsvp4S1 14, some (.rsvpeS2 4)⟩ ∧
  decode [0b01111000#8, 0, 0, 0, 1] = .ok ⟨.inS1 8, some (.addnPX 7 1)⟩ ∧
  decode [0b00111101#8, 0, 0, 0, 18] = .ok ⟨.leftS1 13, some (.jnzPX 3 18)⟩ ∧
  decode [0b10001011#8, 0x12, 0x34, 0x56, 5] = .ok ⟨.addnX 0x12345605, none⟩ ∧
  decode [0b11000000#8, 0, 0, 0, 25] = .ok ⟨.jzX 25, none⟩ ∧
  decode [0b11110011#8] = .ok ⟨.rsvx7X 3, none⟩

/-- Decoding the bytes of any sub-operation, whatever bytes follow, gives it back in its slot, with every field and every
bit of its operand (30_encoding.md sections 2 to 4). -/
def Obligations.DecodeGivesBackWhatEncodeWrites : Prop :=
  ∀ (i : Instr) (rest : List Byte), decodeAt i.slot (encode i ++ rest) = some i

/-- Decoding the bytes of a well-formed packet, whatever bytes follow, gives back both its sub-operations: no bit of a header
byte that the two share is dropped (30_encoding.md sections 2 to 4). -/
def Obligations.WellFormedPacketDecodesBack : Prop :=
  ∀ (p : Packet) (rest : List Byte), p.wf = true → decode (encodePacket p ++ rest) = .ok p

/-- Every header byte has one shape and one length: 5 bytes for bit 7 and for bit 3 with low bits other than 6, else 1 (R92),
and the sub-operations it decodes to are the ones whose rows it matches, in their places. -/
def Obligations.EveryHeaderByteHasOneShapeAndLength : Prop :=
  ∀ (b : Byte) (rest : List Byte), ∃ p, decode (b :: rest) = .ok p ∧ p.wf = true ∧
    ((decodeHeader b).length = if 128 ≤ b.toNat ∨ 8 ≤ b.toNat % 16 ∧ b.toNat % 8 ≠ 6 then 5 else 1) ∧
    (128 ≤ b.toNat → p.second = none ∧ p.first.header.toNat / 16 = b.toNat / 16 ∧ (encodePacket p).length = 5) ∧
    (b.toNat < 128 → p.first.header = b ∧ ∃ i, p.second = some i ∧ i.header = b ∧
      ((encodePacket p).length = if 8 ≤ b.toNat % 16 ∧ b.toNat % 8 ≠ 6 then 5 else 1))

/-- The low nibble of a standalone extended opcode with a defined selector changes nothing in what is decoded, and the upper
three operand bytes of `ADDN` and `SUBN` change nothing in what is done (R89; R87, which the spec marks as derived). -/
def Obligations.IgnoredBitsChangeNothing : Prop :=
  (∀ (spb : Code) (pad pad' : Nibble) (rest : List Byte), spb.toNat < 6 →
    decode (headerByte true spb pad :: rest) = decode (headerByte true spb pad' :: rest)) ∧
  (∀ (i j : Instr) (o o' : Word) (s : State), i.op = .addn ∨ i.op = .subn → j.op = i.op → j.slot = i.slot →
    i.opnd = some o → j.opnd = some o' → o.toNat % 256 = o'.toNat % 256 → exec i s = exec j s)

/-- A 32-bit value at an offset is its four bytes, the first the most significant; so is the operand, in the four bytes after
the header byte, and its low byte is the last of them (R56; that last clause the spec marks as derived from R55). -/
def Obligations.OperandIsFourBytesBigEndian : Prop :=
  (∀ (buffer : List Byte) (a : Nat) (o0 o1 o2 o3 : Byte), buffer[a]? = some o0 → buffer[a + 1]? = some o1 →
    buffer[a + 2]? = some o2 → buffer[a + 3]? = some o3 →
    (fetch32 buffer a).toNat = o0.toNat * 2 ^ 24 + o1.toNat * 2 ^ 16 + o2.toNat * 2 ^ 8 + o3.toNat) ∧
  (∀ (b o0 o1 o2 o3 : Byte) (rest : List Byte) (slot : Slot) (i : Instr) (w : Word),
    decodeAt slot (b :: o0 :: o1 :: o2 :: o3 :: rest) = some i → i.opnd = some w →
    w.toNat = o0.toNat * 2 ^ 24 + o1.toNat * 2 ^ 16 + o2.toNat * 2 ^ 8 + o3.toNat ∧ lowByte w = o3)

/-! ### Load and reset -/

/-- At power-on no program is loaded and the invariant holds (R41, R280). `Unloaded` is the spec's own decision D14; the rest
of the invariant rests on power-on values that the spec does not give and the model chooses: slot 1, no wait, an empty tape,
nothing consumed, the fault registers 0 (log 1). -/
def Obligations.PowerOnStateIsUnloadedAndSound : Prop :=
  State.reset.rs = .unloaded ∧ State.reset.exit = none ∧ State.reset.Inv

/-- No step is taken but in `Running`, unless the host presents a buffer (R129; that this answers a fault of the model by
name is the model's choice, log 15). -/
def Obligations.NoStepIsTakenOutsideRunning : Prop :=
  ∀ s : State, s.loadRequest = none → s.rs ≠ .running → ∃ r, step s = .fault r ∧
    (s.rs = .halted ↔ r = .halted) ∧ (s.rs = .faulted ↔ r = .faulted) ∧ (s.rs = .loadFailed ↔ r = .loadFailed) ∧
    (s.rs = .unloaded ↔ r = .unloaded)

/-- The MF tape: its length, its ones at the even cells from 2 on, 0 elsewhere (R26). -/
def Obligations.LoadOfMfHeaderBuildsItsTape : Prop :=
  ∀ (s : State) (run : Presented) (m0 m1 m2 m3 : Byte) (code : List Byte), s.loadRequest = some run →
    run.prog = 0xFF#8 :: 0x6D#8 :: 0x66#8 :: 0xFD#8 :: m0 :: m1 :: m2 :: m3 :: code →
    code.length + 8 ≤ 2 ^ 31 - 1 → ∃ t, step s = .next t ∧ t.variant = .mf ∧
      t.memsize.toNat = m0.toNat * 2 ^ 24 + m1.toNat * 2 ^ 16 + m2.toNat * 2 ^ 8 + m3.toNat ∧
      t.tapeLen = 2 * t.memsize.toNat + 8 ∧
      ∀ i, i < t.tapeLen → (t.cell i).toNat = if 2 ≤ i ∧ i % 2 = 0 then 1 else 0

/-- The BF tape: `MEMSIZE` cells, all 0; with `MEMSIZE` 0 there are none and no access finds one (R27; that last clause the
spec marks as derived from R24 and from R203, which is its own decision D2). -/
def Obligations.LoadOfBfHeaderBuildsItsTape : Prop :=
  ∀ (s : State) (run : Presented) (m0 m1 m2 m3 : Byte) (code : List Byte), s.loadRequest = some run →
    run.prog = 0xFF#8 :: 0x6D#8 :: 0x68#8 :: 0xFD#8 :: m0 :: m1 :: m2 :: m3 :: code →
    code.length + 8 ≤ 2 ^ 31 - 1 → ∃ t, step s = .next t ∧ t.variant = .bf ∧
      t.memsize.toNat = m0.toNat * 2 ^ 24 + m1.toNat * 2 ^ 16 + m2.toNat * 2 ^ 8 + m3.toNat ∧
      t.tapeLen = t.memsize.toNat ∧ (∀ i, i < t.tapeLen → t.cell i = 0) ∧
      (t.memsize.toNat = 0 → ∀ a, t.memRead a = none)

/-- The registers after a load with a good magic, and the first halt test (R285, R286); the run's input and port failures are
those the host chose with the buffer, whatever an earlier run had (R300; the form is the model's, log 20). The cursor of the
MF variant is the spec's own decision (92_eei_decisions.md D13; log 10). -/
def Obligations.GoodLoadSetsTheRegisters : Prop :=
  ∀ (s : State) (run : Presented), s.loadRequest = some run → 8 ≤ run.prog.length → run.prog.length ≤ 2 ^ 31 - 1 →
    run.prog.take 4 = [0xFF, 0x6D, 0x66, 0xFD] ∨ run.prog.take 4 = [0xFF, 0x6D, 0x68, 0xFD] →
    ∃ t, step s = .next t ∧ t.prog = run.prog ∧ t.loadRequest = none ∧ t.position = 0 ∧ t.pc.toNat = 8 ∧ t.cause.code = 0 ∧
      t.faultPc = 0 ∧ t.faultSlot = 0 ∧ t.faultInfo = 0 ∧ t.outStream = [] ∧ t.inConsumed = 0 ∧
      t.inStream = run.inStream ∧ t.inEnded = run.inEnded ∧ t.readFailAt = run.readFailAt ∧
      t.writeFailAt = run.writeFailAt ∧
      (run.prog.length = 8 → t.rs = .halted ∧ t.exit = some .success) ∧
      (8 < run.prog.length → t.rs = .running ∧ t.exit = none)

/-- A buffer shorter than 8 bytes is `FileTooSmall` whatever it holds, a longer one whose first four bytes are neither magic
is `BadMagic`, and no other buffer is a load error, whatever its `MEMSIZE` (R241, R242). -/
def Obligations.BadHeadersAreLoadErrors : Prop :=
  ∀ (s : State) (run : Presented), s.loadRequest = some run → run.prog.length ≤ 2 ^ 31 - 1 →
    (run.prog.length < 8 → ∃ t, step s = .next t ∧ t.rs = .loadFailed ∧ t.cause = .fileTooSmall) ∧
    (8 ≤ run.prog.length → run.prog.take 4 ≠ [0xFF, 0x6D, 0x66, 0xFD] → run.prog.take 4 ≠ [0xFF, 0x6D, 0x68, 0xFD] →
      ∃ t, step s = .next t ∧ t.rs = .loadFailed ∧ t.cause = .badMagic) ∧
    (8 ≤ run.prog.length → run.prog.take 4 = [0xFF, 0x6D, 0x66, 0xFD] ∨ run.prog.take 4 = [0xFF, 0x6D, 0x68, 0xFD] →
      ∃ t, step s = .next t ∧ t.rs ≠ .loadFailed ∧ t.cause = .none)

/-- A buffer of 2^31 bytes or more is refused by name, whatever it holds (93_implementation_defined.md U16, the spec's own
decision D16; log 11). -/
def Obligations.TooLongBuffersAreRefused : Prop :=
  ∀ (s : State) (run : Presented), s.loadRequest = some run →
    (2 ^ 31 ≤ run.prog.length ↔ step s = .refused .programTooLong)

/-- Nothing of an earlier run survives a load: two cores to which the host presents the same run are the same from then on,
whatever either did before (R42; R302 is the spec's own decision D21; that the host chooses the new run's input with its
buffer is R300, in the form of log 20). -/
def Obligations.LoadForgetsTheEarlierRun : Prop :=
  ∀ (s s' : State) (run : Presented), s.loadRequest = some run → s'.loadRequest = some run → step s' = step s

/-! ### The sub-operations -/

/-- `INC` and `ADDN n` with the cursor on a cell: the cell is the low 8 bits of the sum, and nothing else of the machine
changes but that the sub-operation ends (R204). -/
def Obligations.IncrementAddsModulo256 : Prop :=
  ∀ (i : Instr) (s : State) (n : Nat),
    (i.op = .inc ∧ n = 1 ∨ i.op = .addn ∧ ∃ o, i.opnd = some o ∧ n = o.toNat % 256) →
    OperandInside i s → s.tapeWf → s.inTape s.position →
    ∃ t, exec i s = .next t ∧
      (t.cell s.position.toNat).toNat = ((s.cell s.position.toNat).toNat + n) % 256 ∧ SameTapeBut s.position s t ∧
      t.position = s.position ∧ FellThrough i s t ∧ SameFaultRegisters s t ∧ SamePort s t ∧ SameSetup s t

/-- `DEC` and `SUBN n` with the cursor on a cell: `v - n` if `v >= n`, else `v - n + 256` (R205). -/
def Obligations.DecrementSubtractsModulo256 : Prop :=
  ∀ (i : Instr) (s : State) (n : Nat),
    (i.op = .dec ∧ n = 1 ∨ i.op = .subn ∧ ∃ o, i.opnd = some o ∧ n = o.toNat % 256) →
    OperandInside i s → s.tapeWf → s.inTape s.position →
    ∃ t, exec i s = .next t ∧
      (if n ≤ (s.cell s.position.toNat).toNat
        then (t.cell s.position.toNat).toNat = (s.cell s.position.toNat).toNat - n
        else (t.cell s.position.toNat).toNat = (s.cell s.position.toNat).toNat + 256 - n) ∧
      SameTapeBut s.position s t ∧ t.position = s.position ∧ FellThrough i s t ∧ SameFaultRegisters s t ∧ SamePort s t ∧
      SameSetup s t

/-- `RIGHT` and `RIGHTN m` move the cursor right, wherever it is, and access no cell (R153, R175, R207). That `m` is the
absolute value of the signed operand is the spec's own decision D4. -/
def Obligations.AdvanceMovesTheCursorRight : Prop :=
  ∀ (i : Instr) (s : State) (n : Nat),
    (i.op = .right ∧ n = 1 ∨
      i.op = .rightn ∧ ∃ o, i.opnd = some o ∧ n = if o.toNat < 2 ^ 31 then o.toNat else 2 ^ 32 - o.toNat) →
    OperandInside i s →
    ∃ t, exec i s = .next t ∧ t.position = s.position + n ∧ SameTape s t ∧ FellThrough i s t ∧ SameFaultRegisters s t ∧
      SamePort s t ∧ SameSetup s t

/-- `LEFT` and `LEFTN m` move the cursor left, wherever it is, and access no cell (R154, R176, R208; D4 as above). -/
def Obligations.RetreatMovesTheCursorLeft : Prop :=
  ∀ (i : Instr) (s : State) (n : Nat),
    (i.op = .left ∧ n = 1 ∨
      i.op = .leftn ∧ ∃ o, i.opnd = some o ∧ n = if o.toNat < 2 ^ 31 then o.toNat else 2 ^ 32 - o.toNat) →
    OperandInside i s →
    ∃ t, exec i s = .next t ∧ t.position = s.position - n ∧ SameTape s t ∧ FellThrough i s t ∧ SameFaultRegisters s t ∧
      SamePort s t ∧ SameSetup s t

/-- `OUT` with the cursor on a cell and a port that accepts the byte: exactly one byte, the cell's value, is appended (R222). -/
def Obligations.OutAppendsTheCell : Prop :=
  ∀ (i : Instr) (s : State), i.op = .out → s.inTape s.position → s.writeFailAt ≠ some s.outStream.length →
    ∃ t, exec i s = .next t ∧ t.outStream = s.outStream ++ [s.cell s.position.toNat] ∧ SameTape s t ∧
      t.position = s.position ∧ t.inConsumed = s.inConsumed ∧ t.waiting = s.waiting ∧ PlainEnded i.slot s t ∧
      SameFaultRegisters s t ∧ SameSetup s t

/-- `IN` with the cursor on a cell and byte number `IN_CONSUMED` there: it is stored unchanged and consumed (R224). -/
def Obligations.InStoresTheNextByte : Prop :=
  ∀ (i : Instr) (s : State) (v : Byte), i.op = .input → s.tapeWf → s.inTape s.position →
    s.readFailAt ≠ some s.inConsumed → s.inStream[s.inConsumed]? = some v →
    ∃ t, exec i s = .next t ∧ t.cell s.position.toNat = v ∧ SameTapeBut s.position s t ∧ t.inConsumed = s.inConsumed + 1 ∧
      t.waiting = false ∧ t.outStream = s.outStream ∧ t.position = s.position ∧ PlainEnded i.slot s t ∧
      SameFaultRegisters s t ∧ SameSetup s t

/-- `IN` with no answer yet: the core is in `Running` at the same header byte and the same slot, and nothing changes but that
it waits (R40, R133, R263; that the wait is a step is the model's choice, log 8). -/
def Obligations.InWithoutAnswerOnlyWaits : Prop :=
  ∀ (i : Instr) (s : State), i.op = .input → s.inTape s.position → s.readFailAt ≠ some s.inConsumed →
    s.inStream.length ≤ s.inConsumed → s.inEnded = false →
    ∃ t, exec i s = .next t ∧ t.waiting = true ∧ t = { s with waiting := t.waiting }

/-- End of input and port failures: `EndOfInput` and `IoFailure` with nothing stored, appended or consumed (R223, R225, R226:
the spec's own decisions D9, D10). -/
def Obligations.PortEndAndFailuresAreFaults : Prop :=
  ∀ (i : Instr) (s : State), s.inTape s.position →
    (i.op = .out → s.writeFailAt = some s.outStream.length →
      ∃ t, exec i s = .next t ∧ Raised .ioFailure i.slot 0 s.waiting s t) ∧
    (i.op = .input → s.readFailAt = some s.inConsumed →
      ∃ t, exec i s = .next t ∧ Raised .ioFailure i.slot 0 false s t) ∧
    (i.op = .input → s.readFailAt ≠ some s.inConsumed → s.inStream.length ≤ s.inConsumed → s.inEnded = true →
      ∃ t, exec i s = .next t ∧ Raised .endOfInput i.slot 0 false s t)

/-- The two jumps with the cursor on a cell: taken (`JZ` on 0, `JNZ` on the rest) to a target in `8 .. L` they set `pc` to
the operand, and at `L` the machine halts; taken to another target they raise; not taken they fall through whatever the
operand (R177, R178; R183 is the spec's own decision D5). -/
def Obligations.JumpsTestTheCellAndCheckTheTarget : Prop :=
  ∀ (i : Instr) (s : State) (o : Word) (taken : Bool), i.opnd = some o → OperandInside i s → s.inTape s.position →
    (i.op = .jz ∧ (taken = true ↔ (s.cell s.position.toNat).toNat = 0) ∨
      i.op = .jnz ∧ (taken = true ↔ (s.cell s.position.toNat).toNat ≠ 0)) →
    ∃ t, exec i s = .next t ∧
      (taken = true → 8 ≤ signedValue o → signedValue o ≤ s.len →
        (t.pc.toNat : Int) = signedValue o ∧ Ended o s t) ∧
      (taken = true → ¬(8 ≤ signedValue o ∧ signedValue o ≤ s.len) →
        Raised .jumpTargetOutOfBounds i.slot (signedValue o) s.waiting s t) ∧
      (taken = false → Ended (s.pc + 5) s t) ∧
      t.position = s.position ∧ SameTape s t ∧ SamePort s t ∧ SameSetup s t ∧
      (taken = false ∨ (8 ≤ signedValue o ∧ signedValue o ≤ s.len) → SameFaultRegisters s t)

/-- Every access with the cursor outside the tape raises `PositionOutOfBounds` with the cursor, before anything is written,
appended or consumed, and before a jump's target is looked at (R203, R244, R252: the spec's own decisions D2, D12). -/
def Obligations.AccessOutsideTheTapeIsAFault : Prop :=
  ∀ (i : Instr) (s : State),
    i.op = .inc ∨ i.op = .dec ∨ i.op = .out ∨ i.op = .input ∨ i.op = .addn ∨ i.op = .subn ∨ i.op = .jz ∨ i.op = .jnz →
    OperandInside i s → s.position < 0 ∨ (s.tapeLen : Int) ≤ s.position →
    ∃ t, exec i s = .next t ∧ Raised .positionOutOfBounds i.slot s.position s.waiting s t

/-- An extended opcode with a defined selector whose operand is not wholly inside the buffer raises `TruncatedInstruction`
with `L`, whatever the cursor, the cell and the operand (R171, R247, R252: the spec's own decisions D8, D12). -/
def Obligations.TruncatedOperandIsAFault : Prop :=
  ∀ (i : Instr) (s : State), i.opnd.isSome = true → s.len ≤ s.pc.toNat + 4 →
    ∃ t, exec i s = .next t ∧ Raised .truncatedInstruction i.slot s.len s.waiting s t

/-- Every reserved code raises `ReservedEncoding` with its header byte and its slot, whatever the cursor and however few
bytes follow (R97, R157, R158, R179, R246: the spec's own decision D6). -/
def Obligations.ReservedCodesAreFaults : Prop :=
  ∀ (i : Instr) (s : State),
    i.op = .rsvp4 ∨ i.op = .rsvp5 ∨ i.op = .rsvpe ∨ i.op = .rsvx6 ∨ i.op = .rsvx7 →
    ∃ t, exec i s = .next t ∧ Raised .reservedEncoding i.slot i.header.toNat s.waiting s t

/-! ### All instructions -/

/-- Every instruction answers a next state from every state: none stops the model (R97, R250). That a fault is a next state is
the model's choice (log 15), and so is that an `IN` with no answer gives one, where the spec waits inside the step (R133,
93_implementation_defined.md U18; log 8). -/
def Obligations.EveryInstructionAnswersANextState : Prop := ∀ (i : Instr) (s : State), ∃ t, exec i s = .next t

/-- An instruction that records a fault has changed the six registers of `raise` and, if it was a waiting `IN`, ended the
wait, and nothing else; one that records none has left the fault registers (R250, R251: the spec's own decision D11). -/
def Obligations.FaultChangesOnlyTheStatusRegisters : Prop :=
  ∀ (i : Instr) (s t : State), s.rs = .running → exec i s = .next t →
    (t.rs = .faulted → t.cause ≠ .none ∧
      Raised t.cause i.slot t.faultInfo (if i.op = .input ∧ t.cause ≠ .positionOutOfBounds then false else s.waiting) s t) ∧
    (t.rs ≠ .faulted → SameFaultRegisters s t)

/-- No instruction that steps writes program space: every fetch gives the same byte for the whole run (R70), and the
configuration registers are read-only (R25). -/
def Obligations.ProgramAndConfigurationAreNeverWritten : Prop :=
  ∀ s t : State, s.loadRequest = none → step s = .next t → (∀ a, t.fetch a = s.fetch a) ∧ SameSetup s t

/-- Which ops write what, over all instructions: cells only by `INC DEC ADDN SUBN IN`, the cursor only by the four moves,
the output stream only by `OUT`, the input count only by `IN` (R159, R200, R220). -/
def Obligations.EachInstructionWritesOnlyItsOwn : Prop :=
  ∀ (i : Instr) (s t : State), exec i s = .next t →
    (i.op ∈ [Op.inc, .dec, .addn, .subn, .input] ∨ t.tape = s.tape) ∧
    (i.op ∈ [Op.right, .left, .rightn, .leftn] ∨ t.position = s.position) ∧
    (i.op = .out ∨ t.outStream = s.outStream) ∧ (i.op = .input ∨ t.inConsumed = s.inConsumed ∧ t.waiting = s.waiting)

/-! ### The step -/

/-- A step of a running core runs the decoded instruction: slot 1, then slot 2 in the state slot 1 left, if slot 1 completed
and there is one; after a wait in slot 2, slot 2 alone (R124, R125, R127, R133; log 4). -/
def Obligations.StepRunsTheDecodedInstruction : Prop :=
  ∀ (s : State) (p : Packet), s.loadRequest = none → s.rs = .running → 8 ≤ s.pc.toNat →
    decode (s.prog.drop s.pc.toNat) = .ok p →
    (∀ u, s.slot = .one → exec p.first s = .next u → u.slot = .one → step s = .next u) ∧
    (∀ u i, s.slot = .one → exec p.first s = .next u → u.slot = .two → p.second = some i → step s = exec i u) ∧
    (∀ i, s.slot = .two → p.second = some i → step s = exec i s)

/-- A running core always steps: from every state with the invariant the step answers a next state (R121, R129; 20_memory.md
R72). For a core that waits in an `IN` this is the model's choice, which makes the wait a step: the spec waits inside the step
(R133, U18) and promises a next step only to a core that does not wait (R293; log 8). -/
def Obligations.RunningCoreAlwaysSteps : Prop :=
  ∀ s : State, s.Inv → s.rs = .running → s.loadRequest = none → ∃ t, step s = .next t

/-- The packed pair `0x66` outputs the cell twice and leaves cell and cursor unchanged; `pc` advances by 1 (R135). -/
def Obligations.PackedPairWritesTheCellTwice : Prop :=
  ∀ s : State, s.loadRequest = none → s.rs = .running → s.slot = .one → 8 ≤ s.pc.toNat →
    s.fetch s.pc.toNat = some 0x66#8 → s.inTape s.position → s.writeFailAt = none →
    ∃ t, step s = .next t ∧
      t.outStream = s.outStream ++ [s.cell s.position.toNat, s.cell s.position.toNat] ∧ SameTape s t ∧
      t.position = s.position ∧ t.inConsumed = s.inConsumed ∧ Ended (s.pc + 1) s t ∧ SameFaultRegisters s t ∧ SameSetup s t

/-- Slot 2 sees what slot 1 did: in `0x20` the increment acts on the cell the cursor has just moved to (R125), and a fault
of it keeps the move and `pc` (R250, R251, the spec's own decision D11). -/
def Obligations.SlotTwoSeesWhatSlotOneDid : Prop :=
  ∀ s : State, s.loadRequest = none → s.rs = .running → s.slot = .one → 8 ≤ s.pc.toNat → s.tapeWf →
    s.fetch s.pc.toNat = some 0x20#8 →
    ∃ t, step s = .next t ∧ t.position = s.position + 1 ∧
      (s.inTape (s.position + 1) →
        (t.cell (s.position + 1).toNat).toNat = ((s.cell (s.position + 1).toNat).toNat + 1) % 256 ∧
        SameTapeBut (s.position + 1) s t ∧ Ended (s.pc + 1) s t) ∧
      (¬s.inTape (s.position + 1) →
        t.rs = .faulted ∧ t.cause = .positionOutOfBounds ∧ t.faultPc = s.pc ∧ t.faultSlot = 2 ∧
        t.faultInfo = s.position + 1 ∧ t.pc = s.pc ∧ SameTape s t)

/-- In shape PX the plain code is performed before its extended opcode (R127), by R127's three examples: `0x2C` (`RIGHT`, `JZ`)
tests the cell the cursor has just moved to; `0x68` (`OUT`, `ADDN`) as the last byte writes its byte and then raises
`TruncatedInstruction` in slot 2 (the spec's own decision D8); and `0x08` with operand byte `n` (`INC`, `ADDN`) adds 1 and `n`,
in whichever order. -/
def Obligations.PlainCodeComesBeforeItsExtendedOpcode : Prop :=
  ∀ s : State, s.loadRequest = none → s.rs = .running → s.slot = .one → 8 ≤ s.pc.toNat →
    (∀ w : Word, s.fetch s.pc.toNat = some 0x2C#8 → (s.bytesFrom (s.pc.toNat + 1)).take 4 = operandBytes w →
      s.inTape (s.position + 1) → 8 ≤ w.toNat → w.toNat ≤ s.len → s.len ≤ 2 ^ 31 - 1 →
      ∃ t, step s = .next t ∧ t.position = s.position + 1 ∧ SameTape s t ∧ SameFaultRegisters s t ∧ SamePort s t ∧
        SameSetup s t ∧
        (s.cell (s.position + 1).toNat = 0 → Ended w s t) ∧ (s.cell (s.position + 1).toNat ≠ 0 → Ended (s.pc + 5) s t)) ∧
    (s.fetch s.pc.toNat = some 0x68#8 → s.len = s.pc.toNat + 1 → s.inTape s.position → s.writeFailAt = none →
      ∃ t, step s = .next t ∧ t.outStream = s.outStream ++ [s.cell s.position.toNat] ∧ t.rs = .faulted ∧
        t.cause = .truncatedInstruction ∧ t.faultPc = s.pc ∧ t.faultSlot = 2 ∧ t.faultInfo = s.len ∧ t.pc = s.pc ∧
        t.position = s.position ∧ SameTape s t ∧ SameSetup s t) ∧
    (∀ n : Byte, s.tapeWf → s.inTape s.position → s.fetch s.pc.toNat = some 0x08#8 →
      s.fetch (s.pc.toNat + 4) = some n →
      ∃ t, step s = .next t ∧
        (t.cell s.position.toNat).toNat = ((s.cell s.position.toNat).toNat + 1 + n.toNat) % 256 ∧
        SameTapeBut s.position s t ∧ t.position = s.position ∧ Ended (s.pc + 5) s t ∧ SameFaultRegisters s t ∧
        SamePort s t ∧ SameSetup s t)

/-- A wait in slot 2 keeps slot 1: `0x67` (`OUT`, `IN`) without input writes its byte once and waits, and when a byte is
delivered the next step stores it and ends the instruction without writing again (R40, R67, R133; 95_test_vectors.md section
2.7; log 4, log 8). -/
def Obligations.WaitInSlotTwoKeepsSlotOne : Prop :=
  ∀ (s : State) (w : Byte), s.loadRequest = none → s.rs = .running → s.slot = .one → 8 ≤ s.pc.toNat → s.tapeWf →
    s.inTape s.position → s.fetch s.pc.toNat = some 0x67#8 → s.writeFailAt = none → s.readFailAt = none →
    s.inEnded = false → s.inConsumed = s.inStream.length →
    ∃ t, step s = .next t ∧ t.rs = .running ∧ t.waiting = true ∧ t.pc = s.pc ∧ t.inConsumed = s.inConsumed ∧
      t.outStream = s.outStream ++ [s.cell s.position.toNat] ∧ SameTape s t ∧ step t = .next t ∧
      ∃ u, step (t.afterHost (.deliver [w])) = .next u ∧ u.cell s.position.toNat = w ∧ u.outStream = t.outStream ∧
        u.inConsumed = s.inConsumed + 1 ∧ u.waiting = false ∧ Ended (s.pc + 1) s u

/-- The loop construct: the four moves of a `JZ B` at `A` and a `JNZ A+5` at `C` with `B = C + 5` (R184). -/
def Obligations.LoopConstructRepeatsWhileNonzero : Prop :=
  ∀ (s : State) (a c : Nat), s.loadRequest = none → s.rs = .running → s.slot = .one → s.len ≤ 2 ^ 31 - 1 →
    s.inTape s.position → 8 ≤ a → a + 5 ≤ c → c + 5 ≤ s.len →
    s.bytesFrom a = (encode (.jzX (BitVec.ofNat 32 (c + 5)))) ++ s.bytesFrom (a + 5) →
    s.bytesFrom c = (encode (.jnzX (BitVec.ofNat 32 (a + 5)))) ++ s.bytesFrom (c + 5) →
    (s.pc.toNat = a → ∃ t, step s = .next t ∧ SameTape s t ∧ t.position = s.position ∧
      (s.cell s.position.toNat = 0 → t.pc.toNat = c + 5) ∧ (s.cell s.position.toNat ≠ 0 → t.pc.toNat = a + 5)) ∧
    (s.pc.toNat = c → ∃ t, step s = .next t ∧ SameTape s t ∧ t.position = s.position ∧
      (s.cell s.position.toNat ≠ 0 → t.pc.toNat = a + 5) ∧ (s.cell s.position.toNat = 0 → t.pc.toNat = c + 5))

/-- A `JZ t` followed by a `JNZ t` always transfers to `t`, in one step or in two, when the cursor is on a cell and `t` is in
`8 .. L` (R180, which the spec marks as derived; 95_test_vectors.md P8). -/
def Obligations.JumpPairIsUnconditional : Prop :=
  ∀ (s : State) (w : Word), s.loadRequest = none → s.rs = .running → s.slot = .one → 8 ≤ s.pc.toNat →
    s.len ≤ 2 ^ 31 - 1 → s.inTape s.position → 8 ≤ w.toNat → w.toNat ≤ s.len →
    s.bytesFrom s.pc.toNat = encode (.jzX w) ++ encode (.jnzX w) ++ s.bytesFrom (s.pc.toNat + 10) →
    ∃ t, step s = .next t ∧ (t.pc = w ∨ ∃ u, step t = .next u ∧ u.pc = w ∧ u.position = s.position ∧ SameTape s u)

/-- When a step ends the run well: it halts exactly when it leaves `pc` at `L`, with exit code 0 (R130, R301; R44, which the
spec marks as derived). -/
def Obligations.StepHaltsExactlyAtTheEnd : Prop :=
  ∀ s t : State, s.Inv → s.rs = .running → s.loadRequest = none → step s = .next t →
    (t.rs = .halted ↔ t.pc.toNat = t.len) ∧ (t.rs = .halted → t.exit = some .success ∧ t.cause.code = 0)

/-- `pc` is the header byte's offset until the instruction ends: a step that faults or waits leaves it (R131, R250). -/
def Obligations.FaultOrWaitLeavesPc : Prop :=
  ∀ s t : State, s.rs = .running → s.loadRequest = none → step s = .next t →
    (t.rs = .faulted → t.pc = s.pc ∧ t.faultPc = s.pc ∧ t.faultSlot ≠ 0) ∧
    (t.waiting = true → s.waiting = false → t.pc = s.pc ∧ t.rs = .running)

/-- Input and output are never undone, repeated or dropped by a step: output is only appended, at most two bytes, and input
is only consumed, at most two bytes, in order (R61, R67). -/
def Obligations.StepOnlyAppendsOutputAndConsumesInput : Prop :=
  ∀ s t : State, s.loadRequest = none → step s = .next t →
    (∃ bytes, t.outStream = s.outStream ++ bytes ∧ bytes.length ≤ 2) ∧
    s.inConsumed ≤ t.inConsumed ∧ t.inConsumed ≤ s.inConsumed + 2

/-! ### Laws of the tape unit -/

/-- Two `ADDN` in turn leave the tape that one `ADDN` of the sum leaves, `SUBN n` after `ADDN n` leaves the tape as it was,
`ADDN` of 0 changes no cell, and `SUBN n` is `ADDN` of `256 - n` (R209, which the spec marks as derived). -/
def Obligations.CellArithmeticLaws : Prop :=
  ∀ (s : State) (n k : Word), s.tapeWf → s.inTape s.position → s.pc.toNat + 9 < s.len → s.len ≤ 2 ^ 31 - 1 →
    (∃ t u v w, exec (.addnX n) s = .next t ∧ exec (.addnX k) t = .next u ∧ exec (.addnX (n + k)) s = .next v ∧
      exec (.subnX n) t = .next w ∧ u.tape = v.tape ∧ w.tape = s.tape) ∧
    (∃ z, exec (.addnX 0) s = .next z ∧ z.tape = s.tape) ∧
    (∀ m : Word, m.toNat % 256 = (256 - n.toNat % 256) % 256 → exec (.subnX n) s = exec (.addnX m) s)

/-- `RIGHTN` then `LEFTN` by the same operand restores the cursor, even when it was outside the tape in between, and `RIGHTN`
never moves left (R210, which the spec marks as derived). -/
def Obligations.CursorArithmeticLaws : Prop :=
  ∀ (s : State) (w : Word), s.pc.toNat + 9 < s.len → s.len ≤ 2 ^ 31 - 1 →
    ∃ t u, exec (.rightnX w) s = .next t ∧ exec (.leftnX w) t = .next u ∧ s.position ≤ t.position ∧
      u.position = s.position ∧ SameTape s u

/-! ### Invariants -/

/-- Every step keeps the invariant: the tape stays in canonical form inside its length, `pc` stays in `8 .. L` and is `L`
exactly in `Halted`, the configuration registers stay those of the header, and `CAUSE`, `FAULT_*` and `EXIT` agree with `RS`
(R24, R25, R33 to R38, R44: the status registers are the spec's own decision D14, R44 is marked as derived). -/
def Obligations.StepKeepsTheInvariant : Prop := ∀ s t : State, s.Inv → step s = .next t → t.Inv

/-- Every step keeps the cursor within its distance from the tape (R45, which the spec marks as derived). For a load it rests
on the cursor's first value, 0 for the MF variant by the spec's own decision D13, a choice (log 10). -/
def Obligations.StepKeepsTheCursorRange : Prop :=
  ∀ s t : State, s.Inv → s.cursorWf → step s = .next t → t.cursorWf

/-- So the cursor register never overflows (R45, which the spec marks as derived). -/
def Obligations.CursorStaysBelowTwoToThe61 : Prop :=
  ∀ s : State, s.Inv → s.loaded → s.cursorWf → |s.position| < 2 ^ 61

/-- The exit code says how the run ended: 0 exactly in `Halted`, 1 after a load error, and after a fault the open parameter,
which is not 0 (R38; D14, D15; log 9). -/
def Obligations.ExitCodeSaysHowTheRunEnded : Prop :=
  ∀ s : State, s.Inv →
    (s.report.exitCode = some 0 ↔ s.rs = .halted) ∧ (s.report.exitCode = none ↔ s.rs = .unloaded ∨ s.rs = .running) ∧
    (s.rs = .loadFailed → s.report.exitCode = some 1) ∧
    (s.rs = .faulted → ∃ c, s.report.exitCode = some c ∧ c ≠ 0)

/-! ### The host -/

/-- What the host does between two steps touches only the environment: it keeps the invariant, every register, the tape, the
program and the streams' past, it only lengthens the input, and an ended input stays as it is (R300, whose right column has
no move; the form of the moves is the model's, log 7 and log 20). -/
def Obligations.HostMovesTouchOnlyTheEnvironment : Prop :=
  ∀ (s : State) (m : HostMove), (s.Inv → (s.afterHost m).Inv) ∧
    (∃ bytes, (s.afterHost m).inStream = s.inStream ++ bytes ∧ (s.inEnded = true → bytes = [])) ∧
    (s.inEnded = true → (s.afterHost m).inEnded = true) ∧
    s = { s.afterHost m with
      loadRequest := s.loadRequest, inStream := s.inStream, inEnded := s.inEnded, readFailAt := s.readFailAt,
      writeFailAt := s.writeFailAt }
end

