-- ==== Sys2Proof/Laws/Decode.lean ====
section
/-! SUPPORT. The decoder: what each half of a header byte decodes to, and that what it answers is a well-formed packet. -/

namespace Sys2Proof

theorem plainFirst_slot : ∀ (c : Code) (n : Nibble), (plainFirst c n).slot = .one := by decide

theorem plainFirst_asFirst : ∀ (c : Code) (n : Nibble), (plainFirst c n).asFirst = some (c, n) := by decide

theorem plainFirst_header : ∀ (c : Code) (n : Nibble), (plainFirst c n).header = headerByte false c n := by decide

/-- A plain code of slot 2 stands in slot 2 and has the two nibbles it was read from. -/
theorem plainSecond_spec : ∀ (c : Code) (n : Nibble) (i : Instr), plainSecond c n = some i →
    i.slot = .two ∧ i.asSecond = some (c, n) ∧ i.header = headerByte false c n ∧ i.opnd = none := by
  have key : ∀ (c : Code) (n : Nibble), (plainSecond c n).all (fun i => decide (i.slot = .two ∧ i.asSecond = some (c, n) ∧
      i.header = headerByte false c n ∧ i.opnd = none)) = true := by decide
  intro c n i h
  have := key c n
  rw [h] at this
  simpa using this

/-- Bits put after each other, as a number. -/
theorem append_toNat {m n : Nat} (x : BitVec m) (y : BitVec n) : (x ++ y).toNat = x.toNat * 2 ^ n + y.toNat := by
  rw [BitVec.toNat_append, ← Nat.shiftLeft_add_eq_or_of_lt y.isLt, Nat.shiftLeft_eq]

/-- The four bytes of a value are read back as the value. -/
theorem operandOf_operandBytes (w : Word) (rest : List Byte) : operandOf (operandBytes w ++ rest) = w := by
  apply BitVec.eq_of_toNat_eq
  have := w.isLt
  simp only [operandOf, operandBytes, bigEndian, List.cons_append, List.getD_cons_zero, List.getD_cons_succ, append_toNat,
    BitVec.extractLsb'_toNat, Nat.shiftRight_eq_div_pow]
  omega

/-- A three-bit code is one of eight. -/
theorem code_cases : ∀ c : Code, c = 0 ∨ c = 1 ∨ c = 2 ∨ c = 3 ∨ c = 4 ∨ c = 5 ∨ c = 6 ∨ c = 7 := by decide

/-- An extended opcode of slot 2 stands in slot 2 and has the two nibbles it was read from. -/
theorem extendedSecond_spec {c spb : Code} {w : Word} {i : Instr} (h : extendedSecond c spb w = some i) :
    i.slot = .two ∧ i.asSecond = some (c, 1#1 ++ spb) ∧ i.header = headerByte false c (1#1 ++ spb) ∧
      (i.opnd = some w ∨ i.op = .rsvx7 ∧ i.opnd = none) := by
  rcases code_cases spb with rfl | rfl | rfl | rfl | rfl | rfl | rfl | rfl <;> simp [extendedSecond] at h <;> subst h <;>
    exact ⟨rfl, rfl, rfl, by simp [Instr.opnd, Instr.op]⟩

/-- A standalone extended opcode stands in slot 1 and has no plain code. -/
theorem extendedAlone_spec (spb : Code) (pad : Nibble) (w : Word) :
    (extendedAlone spb pad w).slot = .one ∧ (extendedAlone spb pad w).asFirst = none ∧
      (spb.toNat < 6 → (extendedAlone spb pad w).opnd = some w) := by
  rcases code_cases spb with rfl | rfl | rfl | rfl | rfl | rfl | rfl | rfl <;>
    simp [extendedAlone, Instr.slot, Instr.asFirst, Instr.opnd]

/-- The three shapes of a header byte (R82). -/
theorem decode_shapes (b : Byte) (rest : List Byte) :
    (nibbleHighBit (highNibble b) = true ∧
      decode (b :: rest) = .ok ⟨extendedAlone (nibbleCode (highNibble b)) (lowNibble b) (operandOf rest), none⟩) ∨
    (nibbleHighBit (highNibble b) = false ∧ nibbleHighBit (lowNibble b) = true ∧ nibbleCode (lowNibble b) ≠ 6 ∧
      decode (b :: rest) = packetOf (plainFirst (nibbleCode (highNibble b)) (lowNibble b))
        (extendedSecond (nibbleCode (highNibble b)) (nibbleCode (lowNibble b)) (operandOf rest))) ∨
    (nibbleHighBit (highNibble b) = false ∧
      (nibbleHighBit (lowNibble b) = false ∨ nibbleCode (lowNibble b) = 6) ∧
      decode (b :: rest) = packetOf (plainFirst (nibbleCode (highNibble b)) (lowNibble b))
        (plainSecond (nibbleCode (highNibble b)) (lowNibble b))) := by
  cases h1 : nibbleHighBit (highNibble b) with
  | true =>
    have hd : decodeHeader b = .x (nibbleCode (highNibble b)) (lowNibble b) := if_pos h1
    exact .inl ⟨rfl, by rw [decode, hd]⟩
  | false =>
    have h1' : ¬nibbleHighBit (highNibble b) = true := by simp [h1]
    by_cases h2 : (nibbleHighBit (lowNibble b) && nibbleCode (lowNibble b) != 6) = true
    · have hd : decodeHeader b = .px (nibbleCode (highNibble b)) (nibbleCode (lowNibble b)) :=
        (if_neg h1').trans (if_pos h2)
      obtain ⟨h3, h4⟩ := Bool.and_eq_true_iff.mp h2
      exact .inr (.inl ⟨rfl, h3, by simpa using h4, by rw [decode, hd]⟩)
    · have hd : decodeHeader b = .pp (nibbleCode (highNibble b)) (lowNibble b) := (if_neg h1').trans (if_neg h2)
      refine .inr (.inr ⟨rfl, ?_, by rw [decode, hd]⟩)
      cases h3 : nibbleHighBit (lowNibble b) with
      | false => exact .inl rfl
      | true => exact .inr (by simpa [h3] using h2)

/-- What the decoder answers stands in its slots, and a second sub-operation is there unless the first is a standalone
extended opcode. -/
theorem decode_slots {bytes : List Byte} {p : Packet} (h : decode bytes = .ok p) :
    p.first.slot = .one ∧ (∀ i, p.second = some i → i.slot = .two) ∧ p.first.asFirst.isSome = p.second.isSome := by
  cases bytes with
  | nil => contradiction
  | cons b rest =>
    rcases decode_shapes b rest with ⟨_, hd⟩ | ⟨_, _, _, hd⟩ | ⟨_, _, hd⟩
    · rw [hd] at h; injection h with h; subst h
      obtain ⟨h1, h2, _⟩ := extendedAlone_spec (nibbleCode (highNibble b)) (lowNibble b) (operandOf rest)
      exact ⟨h1, by simp, by simp [h2]⟩
    · rw [hd] at h
      cases hs : extendedSecond (nibbleCode (highNibble b)) (nibbleCode (lowNibble b)) (operandOf rest) with
      | none => rw [hs] at h; contradiction
      | some i =>
        rw [hs] at h; injection h with h; subst h
        refine ⟨plainFirst_slot _ _, fun j hj => ?_, by simp [plainFirst_asFirst]⟩
        injection hj with hj; subst hj
        exact (extendedSecond_spec hs).1
    · rw [hd] at h
      cases hs : plainSecond (nibbleCode (highNibble b)) (lowNibble b) with
      | none => rw [hs] at h; contradiction
      | some i =>
        rw [hs] at h; injection h with h; subst h
        refine ⟨plainFirst_slot _ _, fun j hj => ?_, by simp [plainFirst_asFirst]⟩
        injection hj with hj; subst hj
        exact (plainSecond_spec _ _ _ hs).1

/-- `decodeAt` is the decoded packet's sub-operation. -/
theorem decodeAt_of_ok {slot : Slot} {bytes : List Byte} {p : Packet} (h : decode bytes = .ok p) :
    decodeAt slot bytes = p.inSlot slot := by
  simp [decodeAt, h]

end Sys2Proof
end

