-- ==== Sys2Proof/Laws/Memory.lean ====
section
/-! SUPPORT. The laws of the two memory operations: a read after a write, and the canonical form, kept by every write. -/

namespace Sys2Proof.Machine

variable {init : Nat → Byte}

/-- The canonical form of the rest of a memory. -/
theorem Memory.wf_tail {c : Host.Cell} {m : Memory} (h : Memory.wf init (c :: m)) : Memory.wf init m :=
  ⟨(List.pairwise_cons.mp h.1).2, fun d hd => h.2 d (List.mem_cons_of_mem _ hd)⟩

/-- An address below every listed one reads as unlisted. -/
theorem Memory.read_of_lt {m : Memory} {a : Nat} (h : ∀ c ∈ m, a < c.1) : Memory.read init m a = init a := by
  cases m with
  | nil => rfl
  | cons c m =>
    have hc := h c (List.mem_cons_self ..)
    obtain ⟨b, w⟩ := c
    simp only [Memory.read]
    rw [if_neg (by simp at hc; omega), if_neg (by simp at hc; omega)]

/-- A read after a write: the written address gives the byte written, every other address what it gave before. -/
theorem Memory.read_write {m : Memory} (h : Memory.wf init m) (a : Nat) (v : Byte) (x : Nat) :
    Memory.read init (Memory.write init m a v) x = if x = a then v else Memory.read init m x := by
  induction m with
  | nil =>
    by_cases hv : v = init a
    · by_cases hx : x = a <;> simp [Memory.write, Memory.read, hv, hx]
    · by_cases hx : x = a
      · simp [Memory.write, Memory.read, hv, hx]
      · simp [Memory.write, Memory.read, hv, hx, Ne.symm hx]
  | cons c m ih =>
    obtain ⟨b, w⟩ := c
    have hlt : ∀ c ∈ m, b < c.1 := (List.pairwise_cons.mp h.1).1
    have ih := ih (Memory.wf_tail h)
    have low : ∀ y, y ≤ b → Memory.read init m y = init y := fun y hy =>
      Memory.read_of_lt fun c hc => by have := hlt c hc; omega
    rcases Nat.lt_trichotomy b a with hb | hb | hb
    · simp only [Memory.write, if_pos hb, Memory.read, ih]
      by_cases hx : x = a
      · simp [hx, hb]
      · simp [hx]
    · subst hb
      by_cases hv : v = init b
      · simp only [Memory.write, lt_irrefl, if_false, if_true, hv]
        by_cases hx : x = b
        · simp [hx, low b le_rfl]
        · by_cases hbx : b < x
          · simp [Memory.read, hx, hbx]
          · simp [Memory.read, hx, hbx, Ne.symm hx, low x (by omega)]
      · by_cases hx : x = b
        · simp [Memory.write, Memory.read, hv, hx]
        · simp [Memory.write, Memory.read, hv, hx, Ne.symm hx]
    · have h1 : ¬b < a := by omega
      have h2 : ¬b = a := by omega
      by_cases hv : v = init a
      · by_cases hx : x = a
        · simp [Memory.write, Memory.read, h1, h2, hv, hx]
        · simp [Memory.write, h1, h2, hv, hx]
      · by_cases hx : x = a
        · simp [Memory.write, Memory.read, h1, h2, hv, hx]
        · by_cases hax : a < x
          · simp [Memory.write, Memory.read, h1, h2, hv, hx, hax]
          · have h3 : ¬b < x := by omega
            have h4 : ¬b = x := by omega
            simp [Memory.write, Memory.read, h1, h2, hv, hx, hax, h3, h4, Ne.symm hx]

/-- A write lists no address but the old ones and its own. -/
theorem Memory.mem_write {m : Memory} {a : Nat} {v : Byte} {c : Host.Cell} (h : c ∈ Memory.write init m a v) :
    c ∈ m ∨ c = (a, v) ∧ v ≠ init a := by
  induction m with
  | nil =>
    simp only [Memory.write] at h
    split_ifs at h with hv
    · cases h
    · exact .inr ⟨by simpa using h, hv⟩
  | cons d m ih =>
    obtain ⟨b, w⟩ := d
    simp only [Memory.write] at h
    split_ifs at h with h1 h2 h3 h4
    · rcases List.mem_cons.mp h with h | h
      · exact .inl (h ▸ List.mem_cons_self ..)
      · rcases ih h with h | h
        · exact .inl (List.mem_cons_of_mem _ h)
        · exact .inr h
    · exact .inl (List.mem_cons_of_mem _ h)
    · rcases List.mem_cons.mp h with h | h
      · exact .inr ⟨h, h3⟩
      · exact .inl (List.mem_cons_of_mem _ h)
    · exact .inl h
    · rcases List.mem_cons.mp h with h | h
      · exact .inr ⟨h, h4⟩
      · exact .inl h

/-- A write keeps the canonical form. -/
theorem Memory.write_wf {m : Memory} (h : Memory.wf init m) (a : Nat) (v : Byte) :
    Memory.wf init (Memory.write init m a v) := by
  refine ⟨?_, fun c hc => ?_⟩
  · induction m with
    | nil => simp only [Memory.write]; split_ifs <;> simp
    | cons d m ih =>
      obtain ⟨b, w⟩ := d
      have hlt : ∀ c ∈ m, b < c.1 := (List.pairwise_cons.mp h.1).1
      have htail := (List.pairwise_cons.mp h.1).2
      simp only [Memory.write]
      split_ifs with h1 h2 h3 h4
      · refine List.pairwise_cons.mpr ⟨fun c hc => ?_, ih (Memory.wf_tail h)⟩
        rcases Memory.mem_write hc with hc | ⟨rfl, _⟩
        · exact hlt c hc
        · exact h1
      · exact htail
      · exact List.pairwise_cons.mpr ⟨fun c hc => h2 ▸ hlt c hc, htail⟩
      · exact h.1
      · refine List.pairwise_cons.mpr ⟨fun c hc => ?_, h.1⟩
        rcases List.mem_cons.mp hc with rfl | hc
        · show a < b; omega
        · have := hlt c hc; show a < c.1; omega
  · rcases Memory.mem_write hc with hc | ⟨rfl, hv⟩
    · exact h.2 c hc
    · exact hv

/-- In canonical form a memory is its reads: equal memories are equal lists. -/
theorem Memory.eq_of_read_eq {m m' : Memory} (h : Memory.wf init m) (h' : Memory.wf init m')
    (hr : ∀ a, Memory.read init m a = Memory.read init m' a) : m = m' := by
  induction m generalizing m' with
  | nil =>
    cases m' with
    | nil => rfl
    | cons c m' =>
      obtain ⟨b, w⟩ := c
      have := hr b
      simp [Memory.read] at this
      exact absurd this.symm (h'.2 (b, w) (List.mem_cons_self ..))
  | cons c m ih =>
    obtain ⟨b, w⟩ := c
    have hw : w ≠ init b := h.2 (b, w) (List.mem_cons_self ..)
    have hlt : ∀ c ∈ m, b < c.1 := (List.pairwise_cons.mp h.1).1
    cases m' with
    | nil =>
      have := hr b
      simp [Memory.read] at this
      exact absurd this hw
    | cons d m' =>
      obtain ⟨b', w'⟩ := d
      have hw' : w' ≠ init b' := h'.2 (b', w') (List.mem_cons_self ..)
      have hlt' : ∀ c ∈ m', b' < c.1 := (List.pairwise_cons.mp h'.1).1
      have hb : b = b' := by
        rcases Nat.lt_trichotomy b b' with hb | hb | hb
        · have := hr b
          simp [Memory.read, show ¬b' < b by omega, show ¬b' = b by omega] at this
          exact absurd this hw
        · exact hb
        · have := hr b'
          simp [Memory.read, show ¬b < b' by omega, show ¬b = b' by omega] at this
          exact absurd this.symm hw'
      subst hb
      have hww : w = w' := by simpa [Memory.read] using hr b
      subst hww
      congr 1
      refine ih (Memory.wf_tail h) (Memory.wf_tail h') fun a => ?_
      by_cases ha : b < a
      · simpa [Memory.read, ha] using hr a
      · rw [Memory.read_of_lt fun c hc => by have := hlt c hc; omega,
          Memory.read_of_lt fun c hc => by have := hlt' c hc; omega]

end Sys2Proof.Machine
end

