-- ==== Sys2Proof/Laws/State.lean ====
section
/-! SUPPORT. One lemma per field per update of the state, so that no later proof unfolds a record update. -/

namespace Sys2Proof.Machine

/-! ### `State.setCell` -/

@[simp] theorem State.setCell_loadRequest (s : State) (v : Byte) : (s.setCell v).loadRequest = s.loadRequest := rfl
@[simp] theorem State.setCell_prog (s : State) (v : Byte) : (s.setCell v).prog = s.prog := rfl
@[simp] theorem State.setCell_rs (s : State) (v : Byte) : (s.setCell v).rs = s.rs := rfl
@[simp] theorem State.setCell_cause (s : State) (v : Byte) : (s.setCell v).cause = s.cause := rfl
@[simp] theorem State.setCell_exit (s : State) (v : Byte) : (s.setCell v).exit = s.exit := rfl
@[simp] theorem State.setCell_pc (s : State) (v : Byte) : (s.setCell v).pc = s.pc := rfl
@[simp] theorem State.setCell_slot (s : State) (v : Byte) : (s.setCell v).slot = s.slot := rfl
@[simp] theorem State.setCell_waiting (s : State) (v : Byte) : (s.setCell v).waiting = s.waiting := rfl
@[simp] theorem State.setCell_position (s : State) (v : Byte) : (s.setCell v).position = s.position := rfl
@[simp] theorem State.setCell_variant (s : State) (v : Byte) : (s.setCell v).variant = s.variant := rfl
@[simp] theorem State.setCell_memsize (s : State) (v : Byte) : (s.setCell v).memsize = s.memsize := rfl
@[simp] theorem State.setCell_tapeLen (s : State) (v : Byte) : (s.setCell v).tapeLen = s.tapeLen := rfl
@[simp] theorem State.setCell_tape (s : State) (v : Byte) : (s.setCell v).tape = Memory.write (initCell s.variant) s.tape s.position.toNat v := rfl
@[simp] theorem State.setCell_faultPc (s : State) (v : Byte) : (s.setCell v).faultPc = s.faultPc := rfl
@[simp] theorem State.setCell_faultSlot (s : State) (v : Byte) : (s.setCell v).faultSlot = s.faultSlot := rfl
@[simp] theorem State.setCell_faultInfo (s : State) (v : Byte) : (s.setCell v).faultInfo = s.faultInfo := rfl
@[simp] theorem State.setCell_outStream (s : State) (v : Byte) : (s.setCell v).outStream = s.outStream := rfl
@[simp] theorem State.setCell_inStream (s : State) (v : Byte) : (s.setCell v).inStream = s.inStream := rfl
@[simp] theorem State.setCell_inEnded (s : State) (v : Byte) : (s.setCell v).inEnded = s.inEnded := rfl
@[simp] theorem State.setCell_inConsumed (s : State) (v : Byte) : (s.setCell v).inConsumed = s.inConsumed := rfl
@[simp] theorem State.setCell_readFailAt (s : State) (v : Byte) : (s.setCell v).readFailAt = s.readFailAt := rfl
@[simp] theorem State.setCell_writeFailAt (s : State) (v : Byte) : (s.setCell v).writeFailAt = s.writeFailAt := rfl
@[simp] theorem State.setCell_len (s : State) (v : Byte) : (s.setCell v).len = s.len := rfl

/-! ### `State.moveCursor` -/

@[simp] theorem State.moveCursor_loadRequest (s : State) (n : Int) : (s.moveCursor n).loadRequest = s.loadRequest := rfl
@[simp] theorem State.moveCursor_prog (s : State) (n : Int) : (s.moveCursor n).prog = s.prog := rfl
@[simp] theorem State.moveCursor_rs (s : State) (n : Int) : (s.moveCursor n).rs = s.rs := rfl
@[simp] theorem State.moveCursor_cause (s : State) (n : Int) : (s.moveCursor n).cause = s.cause := rfl
@[simp] theorem State.moveCursor_exit (s : State) (n : Int) : (s.moveCursor n).exit = s.exit := rfl
@[simp] theorem State.moveCursor_pc (s : State) (n : Int) : (s.moveCursor n).pc = s.pc := rfl
@[simp] theorem State.moveCursor_slot (s : State) (n : Int) : (s.moveCursor n).slot = s.slot := rfl
@[simp] theorem State.moveCursor_waiting (s : State) (n : Int) : (s.moveCursor n).waiting = s.waiting := rfl
@[simp] theorem State.moveCursor_position (s : State) (n : Int) : (s.moveCursor n).position = s.position + n := rfl
@[simp] theorem State.moveCursor_variant (s : State) (n : Int) : (s.moveCursor n).variant = s.variant := rfl
@[simp] theorem State.moveCursor_memsize (s : State) (n : Int) : (s.moveCursor n).memsize = s.memsize := rfl
@[simp] theorem State.moveCursor_tapeLen (s : State) (n : Int) : (s.moveCursor n).tapeLen = s.tapeLen := rfl
@[simp] theorem State.moveCursor_tape (s : State) (n : Int) : (s.moveCursor n).tape = s.tape := rfl
@[simp] theorem State.moveCursor_faultPc (s : State) (n : Int) : (s.moveCursor n).faultPc = s.faultPc := rfl
@[simp] theorem State.moveCursor_faultSlot (s : State) (n : Int) : (s.moveCursor n).faultSlot = s.faultSlot := rfl
@[simp] theorem State.moveCursor_faultInfo (s : State) (n : Int) : (s.moveCursor n).faultInfo = s.faultInfo := rfl
@[simp] theorem State.moveCursor_outStream (s : State) (n : Int) : (s.moveCursor n).outStream = s.outStream := rfl
@[simp] theorem State.moveCursor_inStream (s : State) (n : Int) : (s.moveCursor n).inStream = s.inStream := rfl
@[simp] theorem State.moveCursor_inEnded (s : State) (n : Int) : (s.moveCursor n).inEnded = s.inEnded := rfl
@[simp] theorem State.moveCursor_inConsumed (s : State) (n : Int) : (s.moveCursor n).inConsumed = s.inConsumed := rfl
@[simp] theorem State.moveCursor_readFailAt (s : State) (n : Int) : (s.moveCursor n).readFailAt = s.readFailAt := rfl
@[simp] theorem State.moveCursor_writeFailAt (s : State) (n : Int) : (s.moveCursor n).writeFailAt = s.writeFailAt := rfl
@[simp] theorem State.moveCursor_len (s : State) (n : Int) : (s.moveCursor n).len = s.len := rfl

/-! ### `State.raise` -/

@[simp] theorem State.raise_loadRequest (s : State) (c : Cause) (sl : Slot) (info : Int) : (s.raise c sl info).loadRequest = s.loadRequest := rfl
@[simp] theorem State.raise_prog (s : State) (c : Cause) (sl : Slot) (info : Int) : (s.raise c sl info).prog = s.prog := rfl
@[simp] theorem State.raise_rs (s : State) (c : Cause) (sl : Slot) (info : Int) : (s.raise c sl info).rs = .faulted := rfl
@[simp] theorem State.raise_cause (s : State) (c : Cause) (sl : Slot) (info : Int) : (s.raise c sl info).cause = c := rfl
@[simp] theorem State.raise_exit (s : State) (c : Cause) (sl : Slot) (info : Int) : (s.raise c sl info).exit = some .faultExitCode := rfl
@[simp] theorem State.raise_pc (s : State) (c : Cause) (sl : Slot) (info : Int) : (s.raise c sl info).pc = s.pc := rfl
@[simp] theorem State.raise_slot (s : State) (c : Cause) (sl : Slot) (info : Int) : (s.raise c sl info).slot = s.slot := rfl
@[simp] theorem State.raise_waiting (s : State) (c : Cause) (sl : Slot) (info : Int) : (s.raise c sl info).waiting = s.waiting := rfl
@[simp] theorem State.raise_position (s : State) (c : Cause) (sl : Slot) (info : Int) : (s.raise c sl info).position = s.position := rfl
@[simp] theorem State.raise_variant (s : State) (c : Cause) (sl : Slot) (info : Int) : (s.raise c sl info).variant = s.variant := rfl
@[simp] theorem State.raise_memsize (s : State) (c : Cause) (sl : Slot) (info : Int) : (s.raise c sl info).memsize = s.memsize := rfl
@[simp] theorem State.raise_tapeLen (s : State) (c : Cause) (sl : Slot) (info : Int) : (s.raise c sl info).tapeLen = s.tapeLen := rfl
@[simp] theorem State.raise_tape (s : State) (c : Cause) (sl : Slot) (info : Int) : (s.raise c sl info).tape = s.tape := rfl
@[simp] theorem State.raise_faultPc (s : State) (c : Cause) (sl : Slot) (info : Int) : (s.raise c sl info).faultPc = s.pc := rfl
@[simp] theorem State.raise_faultSlot (s : State) (c : Cause) (sl : Slot) (info : Int) : (s.raise c sl info).faultSlot = slotNumber sl := rfl
@[simp] theorem State.raise_faultInfo (s : State) (c : Cause) (sl : Slot) (info : Int) : (s.raise c sl info).faultInfo = info := rfl
@[simp] theorem State.raise_outStream (s : State) (c : Cause) (sl : Slot) (info : Int) : (s.raise c sl info).outStream = s.outStream := rfl
@[simp] theorem State.raise_inStream (s : State) (c : Cause) (sl : Slot) (info : Int) : (s.raise c sl info).inStream = s.inStream := rfl
@[simp] theorem State.raise_inEnded (s : State) (c : Cause) (sl : Slot) (info : Int) : (s.raise c sl info).inEnded = s.inEnded := rfl
@[simp] theorem State.raise_inConsumed (s : State) (c : Cause) (sl : Slot) (info : Int) : (s.raise c sl info).inConsumed = s.inConsumed := rfl
@[simp] theorem State.raise_readFailAt (s : State) (c : Cause) (sl : Slot) (info : Int) : (s.raise c sl info).readFailAt = s.readFailAt := rfl
@[simp] theorem State.raise_writeFailAt (s : State) (c : Cause) (sl : Slot) (info : Int) : (s.raise c sl info).writeFailAt = s.writeFailAt := rfl
@[simp] theorem State.raise_len (s : State) (c : Cause) (sl : Slot) (info : Int) : (s.raise c sl info).len = s.len := rfl

/-! ### `State.toSlotTwo` -/

@[simp] theorem State.toSlotTwo_loadRequest (s : State) : s.toSlotTwo.loadRequest = s.loadRequest := rfl
@[simp] theorem State.toSlotTwo_prog (s : State) : s.toSlotTwo.prog = s.prog := rfl
@[simp] theorem State.toSlotTwo_rs (s : State) : s.toSlotTwo.rs = s.rs := rfl
@[simp] theorem State.toSlotTwo_cause (s : State) : s.toSlotTwo.cause = s.cause := rfl
@[simp] theorem State.toSlotTwo_exit (s : State) : s.toSlotTwo.exit = s.exit := rfl
@[simp] theorem State.toSlotTwo_pc (s : State) : s.toSlotTwo.pc = s.pc := rfl
@[simp] theorem State.toSlotTwo_slot (s : State) : s.toSlotTwo.slot = .two := rfl
@[simp] theorem State.toSlotTwo_waiting (s : State) : s.toSlotTwo.waiting = s.waiting := rfl
@[simp] theorem State.toSlotTwo_position (s : State) : s.toSlotTwo.position = s.position := rfl
@[simp] theorem State.toSlotTwo_variant (s : State) : s.toSlotTwo.variant = s.variant := rfl
@[simp] theorem State.toSlotTwo_memsize (s : State) : s.toSlotTwo.memsize = s.memsize := rfl
@[simp] theorem State.toSlotTwo_tapeLen (s : State) : s.toSlotTwo.tapeLen = s.tapeLen := rfl
@[simp] theorem State.toSlotTwo_tape (s : State) : s.toSlotTwo.tape = s.tape := rfl
@[simp] theorem State.toSlotTwo_faultPc (s : State) : s.toSlotTwo.faultPc = s.faultPc := rfl
@[simp] theorem State.toSlotTwo_faultSlot (s : State) : s.toSlotTwo.faultSlot = s.faultSlot := rfl
@[simp] theorem State.toSlotTwo_faultInfo (s : State) : s.toSlotTwo.faultInfo = s.faultInfo := rfl
@[simp] theorem State.toSlotTwo_outStream (s : State) : s.toSlotTwo.outStream = s.outStream := rfl
@[simp] theorem State.toSlotTwo_inStream (s : State) : s.toSlotTwo.inStream = s.inStream := rfl
@[simp] theorem State.toSlotTwo_inEnded (s : State) : s.toSlotTwo.inEnded = s.inEnded := rfl
@[simp] theorem State.toSlotTwo_inConsumed (s : State) : s.toSlotTwo.inConsumed = s.inConsumed := rfl
@[simp] theorem State.toSlotTwo_readFailAt (s : State) : s.toSlotTwo.readFailAt = s.readFailAt := rfl
@[simp] theorem State.toSlotTwo_writeFailAt (s : State) : s.toSlotTwo.writeFailAt = s.writeFailAt := rfl
@[simp] theorem State.toSlotTwo_len (s : State) : s.toSlotTwo.len = s.len := rfl

/-! ### `State.endInstr` -/

@[simp] theorem State.endInstr_loadRequest (s : State) (p : Word) : (s.endInstr p).loadRequest = s.loadRequest := rfl
@[simp] theorem State.endInstr_prog (s : State) (p : Word) : (s.endInstr p).prog = s.prog := rfl
@[simp] theorem State.endInstr_rs (s : State) (p : Word) : (s.endInstr p).rs = if s.len ≤ p.toNat then .halted else s.rs := rfl
@[simp] theorem State.endInstr_cause (s : State) (p : Word) : (s.endInstr p).cause = s.cause := rfl
@[simp] theorem State.endInstr_exit (s : State) (p : Word) : (s.endInstr p).exit = if s.len ≤ p.toNat then some .success else s.exit := rfl
@[simp] theorem State.endInstr_pc (s : State) (p : Word) : (s.endInstr p).pc = p := rfl
@[simp] theorem State.endInstr_slot (s : State) (p : Word) : (s.endInstr p).slot = .one := rfl
@[simp] theorem State.endInstr_waiting (s : State) (p : Word) : (s.endInstr p).waiting = s.waiting := rfl
@[simp] theorem State.endInstr_position (s : State) (p : Word) : (s.endInstr p).position = s.position := rfl
@[simp] theorem State.endInstr_variant (s : State) (p : Word) : (s.endInstr p).variant = s.variant := rfl
@[simp] theorem State.endInstr_memsize (s : State) (p : Word) : (s.endInstr p).memsize = s.memsize := rfl
@[simp] theorem State.endInstr_tapeLen (s : State) (p : Word) : (s.endInstr p).tapeLen = s.tapeLen := rfl
@[simp] theorem State.endInstr_tape (s : State) (p : Word) : (s.endInstr p).tape = s.tape := rfl
@[simp] theorem State.endInstr_faultPc (s : State) (p : Word) : (s.endInstr p).faultPc = s.faultPc := rfl
@[simp] theorem State.endInstr_faultSlot (s : State) (p : Word) : (s.endInstr p).faultSlot = s.faultSlot := rfl
@[simp] theorem State.endInstr_faultInfo (s : State) (p : Word) : (s.endInstr p).faultInfo = s.faultInfo := rfl
@[simp] theorem State.endInstr_outStream (s : State) (p : Word) : (s.endInstr p).outStream = s.outStream := rfl
@[simp] theorem State.endInstr_inStream (s : State) (p : Word) : (s.endInstr p).inStream = s.inStream := rfl
@[simp] theorem State.endInstr_inEnded (s : State) (p : Word) : (s.endInstr p).inEnded = s.inEnded := rfl
@[simp] theorem State.endInstr_inConsumed (s : State) (p : Word) : (s.endInstr p).inConsumed = s.inConsumed := rfl
@[simp] theorem State.endInstr_readFailAt (s : State) (p : Word) : (s.endInstr p).readFailAt = s.readFailAt := rfl
@[simp] theorem State.endInstr_writeFailAt (s : State) (p : Word) : (s.endInstr p).writeFailAt = s.writeFailAt := rfl
@[simp] theorem State.endInstr_len (s : State) (p : Word) : (s.endInstr p).len = s.len := rfl

/-! ### `State.emit` -/

@[simp] theorem State.emit_loadRequest (s : State) (v : Byte) : (s.emit v).loadRequest = s.loadRequest := rfl
@[simp] theorem State.emit_prog (s : State) (v : Byte) : (s.emit v).prog = s.prog := rfl
@[simp] theorem State.emit_rs (s : State) (v : Byte) : (s.emit v).rs = s.rs := rfl
@[simp] theorem State.emit_cause (s : State) (v : Byte) : (s.emit v).cause = s.cause := rfl
@[simp] theorem State.emit_exit (s : State) (v : Byte) : (s.emit v).exit = s.exit := rfl
@[simp] theorem State.emit_pc (s : State) (v : Byte) : (s.emit v).pc = s.pc := rfl
@[simp] theorem State.emit_slot (s : State) (v : Byte) : (s.emit v).slot = s.slot := rfl
@[simp] theorem State.emit_waiting (s : State) (v : Byte) : (s.emit v).waiting = s.waiting := rfl
@[simp] theorem State.emit_position (s : State) (v : Byte) : (s.emit v).position = s.position := rfl
@[simp] theorem State.emit_variant (s : State) (v : Byte) : (s.emit v).variant = s.variant := rfl
@[simp] theorem State.emit_memsize (s : State) (v : Byte) : (s.emit v).memsize = s.memsize := rfl
@[simp] theorem State.emit_tapeLen (s : State) (v : Byte) : (s.emit v).tapeLen = s.tapeLen := rfl
@[simp] theorem State.emit_tape (s : State) (v : Byte) : (s.emit v).tape = s.tape := rfl
@[simp] theorem State.emit_faultPc (s : State) (v : Byte) : (s.emit v).faultPc = s.faultPc := rfl
@[simp] theorem State.emit_faultSlot (s : State) (v : Byte) : (s.emit v).faultSlot = s.faultSlot := rfl
@[simp] theorem State.emit_faultInfo (s : State) (v : Byte) : (s.emit v).faultInfo = s.faultInfo := rfl
@[simp] theorem State.emit_outStream (s : State) (v : Byte) : (s.emit v).outStream = s.outStream ++ [v] := rfl
@[simp] theorem State.emit_inStream (s : State) (v : Byte) : (s.emit v).inStream = s.inStream := rfl
@[simp] theorem State.emit_inEnded (s : State) (v : Byte) : (s.emit v).inEnded = s.inEnded := rfl
@[simp] theorem State.emit_inConsumed (s : State) (v : Byte) : (s.emit v).inConsumed = s.inConsumed := rfl
@[simp] theorem State.emit_readFailAt (s : State) (v : Byte) : (s.emit v).readFailAt = s.readFailAt := rfl
@[simp] theorem State.emit_writeFailAt (s : State) (v : Byte) : (s.emit v).writeFailAt = s.writeFailAt := rfl
@[simp] theorem State.emit_len (s : State) (v : Byte) : (s.emit v).len = s.len := rfl

/-! ### `State.consume` -/

@[simp] theorem State.consume_loadRequest (s : State) : s.consume.loadRequest = s.loadRequest := rfl
@[simp] theorem State.consume_prog (s : State) : s.consume.prog = s.prog := rfl
@[simp] theorem State.consume_rs (s : State) : s.consume.rs = s.rs := rfl
@[simp] theorem State.consume_cause (s : State) : s.consume.cause = s.cause := rfl
@[simp] theorem State.consume_exit (s : State) : s.consume.exit = s.exit := rfl
@[simp] theorem State.consume_pc (s : State) : s.consume.pc = s.pc := rfl
@[simp] theorem State.consume_slot (s : State) : s.consume.slot = s.slot := rfl
@[simp] theorem State.consume_waiting (s : State) : s.consume.waiting = false := rfl
@[simp] theorem State.consume_position (s : State) : s.consume.position = s.position := rfl
@[simp] theorem State.consume_variant (s : State) : s.consume.variant = s.variant := rfl
@[simp] theorem State.consume_memsize (s : State) : s.consume.memsize = s.memsize := rfl
@[simp] theorem State.consume_tapeLen (s : State) : s.consume.tapeLen = s.tapeLen := rfl
@[simp] theorem State.consume_tape (s : State) : s.consume.tape = s.tape := rfl
@[simp] theorem State.consume_faultPc (s : State) : s.consume.faultPc = s.faultPc := rfl
@[simp] theorem State.consume_faultSlot (s : State) : s.consume.faultSlot = s.faultSlot := rfl
@[simp] theorem State.consume_faultInfo (s : State) : s.consume.faultInfo = s.faultInfo := rfl
@[simp] theorem State.consume_outStream (s : State) : s.consume.outStream = s.outStream := rfl
@[simp] theorem State.consume_inStream (s : State) : s.consume.inStream = s.inStream := rfl
@[simp] theorem State.consume_inEnded (s : State) : s.consume.inEnded = s.inEnded := rfl
@[simp] theorem State.consume_inConsumed (s : State) : s.consume.inConsumed = s.inConsumed + 1 := rfl
@[simp] theorem State.consume_readFailAt (s : State) : s.consume.readFailAt = s.readFailAt := rfl
@[simp] theorem State.consume_writeFailAt (s : State) : s.consume.writeFailAt = s.writeFailAt := rfl
@[simp] theorem State.consume_len (s : State) : s.consume.len = s.len := rfl

/-! ### `State.unblock` -/

@[simp] theorem State.unblock_loadRequest (s : State) : s.unblock.loadRequest = s.loadRequest := rfl
@[simp] theorem State.unblock_prog (s : State) : s.unblock.prog = s.prog := rfl
@[simp] theorem State.unblock_rs (s : State) : s.unblock.rs = s.rs := rfl
@[simp] theorem State.unblock_cause (s : State) : s.unblock.cause = s.cause := rfl
@[simp] theorem State.unblock_exit (s : State) : s.unblock.exit = s.exit := rfl
@[simp] theorem State.unblock_pc (s : State) : s.unblock.pc = s.pc := rfl
@[simp] theorem State.unblock_slot (s : State) : s.unblock.slot = s.slot := rfl
@[simp] theorem State.unblock_waiting (s : State) : s.unblock.waiting = false := rfl
@[simp] theorem State.unblock_position (s : State) : s.unblock.position = s.position := rfl
@[simp] theorem State.unblock_variant (s : State) : s.unblock.variant = s.variant := rfl
@[simp] theorem State.unblock_memsize (s : State) : s.unblock.memsize = s.memsize := rfl
@[simp] theorem State.unblock_tapeLen (s : State) : s.unblock.tapeLen = s.tapeLen := rfl
@[simp] theorem State.unblock_tape (s : State) : s.unblock.tape = s.tape := rfl
@[simp] theorem State.unblock_faultPc (s : State) : s.unblock.faultPc = s.faultPc := rfl
@[simp] theorem State.unblock_faultSlot (s : State) : s.unblock.faultSlot = s.faultSlot := rfl
@[simp] theorem State.unblock_faultInfo (s : State) : s.unblock.faultInfo = s.faultInfo := rfl
@[simp] theorem State.unblock_outStream (s : State) : s.unblock.outStream = s.outStream := rfl
@[simp] theorem State.unblock_inStream (s : State) : s.unblock.inStream = s.inStream := rfl
@[simp] theorem State.unblock_inEnded (s : State) : s.unblock.inEnded = s.inEnded := rfl
@[simp] theorem State.unblock_inConsumed (s : State) : s.unblock.inConsumed = s.inConsumed := rfl
@[simp] theorem State.unblock_readFailAt (s : State) : s.unblock.readFailAt = s.readFailAt := rfl
@[simp] theorem State.unblock_writeFailAt (s : State) : s.unblock.writeFailAt = s.writeFailAt := rfl
@[simp] theorem State.unblock_len (s : State) : s.unblock.len = s.len := rfl

/-! ### `State.block` -/

@[simp] theorem State.block_loadRequest (s : State) : s.block.loadRequest = s.loadRequest := rfl
@[simp] theorem State.block_prog (s : State) : s.block.prog = s.prog := rfl
@[simp] theorem State.block_rs (s : State) : s.block.rs = s.rs := rfl
@[simp] theorem State.block_cause (s : State) : s.block.cause = s.cause := rfl
@[simp] theorem State.block_exit (s : State) : s.block.exit = s.exit := rfl
@[simp] theorem State.block_pc (s : State) : s.block.pc = s.pc := rfl
@[simp] theorem State.block_slot (s : State) : s.block.slot = s.slot := rfl
@[simp] theorem State.block_waiting (s : State) : s.block.waiting = true := rfl
@[simp] theorem State.block_position (s : State) : s.block.position = s.position := rfl
@[simp] theorem State.block_variant (s : State) : s.block.variant = s.variant := rfl
@[simp] theorem State.block_memsize (s : State) : s.block.memsize = s.memsize := rfl
@[simp] theorem State.block_tapeLen (s : State) : s.block.tapeLen = s.tapeLen := rfl
@[simp] theorem State.block_tape (s : State) : s.block.tape = s.tape := rfl
@[simp] theorem State.block_faultPc (s : State) : s.block.faultPc = s.faultPc := rfl
@[simp] theorem State.block_faultSlot (s : State) : s.block.faultSlot = s.faultSlot := rfl
@[simp] theorem State.block_faultInfo (s : State) : s.block.faultInfo = s.faultInfo := rfl
@[simp] theorem State.block_outStream (s : State) : s.block.outStream = s.outStream := rfl
@[simp] theorem State.block_inStream (s : State) : s.block.inStream = s.inStream := rfl
@[simp] theorem State.block_inEnded (s : State) : s.block.inEnded = s.inEnded := rfl
@[simp] theorem State.block_inConsumed (s : State) : s.block.inConsumed = s.inConsumed := rfl
@[simp] theorem State.block_readFailAt (s : State) : s.block.readFailAt = s.readFailAt := rfl
@[simp] theorem State.block_writeFailAt (s : State) : s.block.writeFailAt = s.writeFailAt := rfl
@[simp] theorem State.block_len (s : State) : s.block.len = s.len := rfl

/-! ### `State.plainDone` -/

@[simp] theorem State.plainDone_one (s : State) : s.plainDone .one = s.toSlotTwo := rfl
@[simp] theorem State.plainDone_two (s : State) : s.plainDone .two = s.endInstr (s.pc + 1) := rfl

end Sys2Proof.Machine
end

