-- ==== Sys2Proof/Laws/Ops.lean ====
section
/-! SUPPORT. One lemma for each shared operation: what it answers, which cells it leaves, that it keeps the tape's form. -/

namespace Sys2Proof.Machine

/-! ### Cells -/

@[simp] theorem State.moveCursor_cell (s : State) (n : Int) (a : Nat) : (s.moveCursor n).cell a = s.cell a := rfl
@[simp] theorem State.raise_cell (s : State) (c : Cause) (sl : Slot) (info : Int) (a : Nat) :
    (s.raise c sl info).cell a = s.cell a := rfl
@[simp] theorem State.toSlotTwo_cell (s : State) (a : Nat) : s.toSlotTwo.cell a = s.cell a := rfl
@[simp] theorem State.endInstr_cell (s : State) (p : Word) (a : Nat) : (s.endInstr p).cell a = s.cell a := rfl
@[simp] theorem State.emit_cell (s : State) (v : Byte) (a : Nat) : (s.emit v).cell a = s.cell a := rfl
@[simp] theorem State.consume_cell (s : State) (a : Nat) : s.consume.cell a = s.cell a := rfl
@[simp] theorem State.unblock_cell (s : State) (a : Nat) : s.unblock.cell a = s.cell a := rfl
@[simp] theorem State.block_cell (s : State) (a : Nat) : s.block.cell a = s.cell a := rfl

/-- A cell after a write of the current one (R202: no other cell changes). -/
theorem State.setCell_cell {s : State} (h : s.tapeWf) (v : Byte) (a : Nat) :
    (s.setCell v).cell a = if a = s.position.toNat then v else s.cell a :=
  Memory.read_write h.1 _ _ _

/-- A write of an existing cell keeps the tape's form. -/
theorem State.tapeWf_setCell {s : State} (h : s.tapeWf) (hp : s.inTape s.position) (v : Byte) : (s.setCell v).tapeWf := by
  refine ⟨Memory.write_wf h.1 _ _, fun c hc => ?_⟩
  rcases Memory.mem_write hc with hc | ⟨rfl, _⟩
  · exact h.2 c hc
  · obtain ⟨h0, h1⟩ := hp
    show s.position.toNat < s.tapeLen
    omega

/-- Tapes in canonical form with the same cells are the same list. -/
theorem State.tape_eq_of_cells {s t : State} (hs : s.tapeWf) (ht : t.tapeWf) (hv : t.variant = s.variant)
    (hc : ∀ a, t.cell a = s.cell a) : t.tape = s.tape := by
  refine Memory.eq_of_read_eq (init := initCell s.variant) (hv ▸ ht.1) hs.1 fun a => ?_
  have := hc a
  simpa only [State.cell, hv] using this

/-! ### The checks -/

theorem onCell_in {slot : Slot} {s : State} {k : Byte → Result} (h : s.inTape s.position) :
    onCell slot s k = k (s.cell s.position.toNat) := by
  simp only [onCell, State.memRead, if_pos h]

theorem onCell_out {slot : Slot} {s : State} {k : Byte → Result} (h : ¬s.inTape s.position) :
    onCell slot s k = .next (s.raise .positionOutOfBounds slot s.position) := by
  simp only [onCell, State.memRead, if_neg h]

theorem onOperand_in {slot : Slot} {s : State} {k : Result} (h : s.pc.toNat + 4 < s.len) : onOperand slot s k = k :=
  if_neg (by omega)

theorem onOperand_out {slot : Slot} {s : State} {k : Result} (h : s.len ≤ s.pc.toNat + 4) :
    onOperand slot s k = .next (s.raise .truncatedInstruction slot s.len) :=
  if_pos h

/-- The bound check answers either what follows or the fault. -/
theorem onCell_cases {slot : Slot} {s t : State} {k : Byte → Result} (h : onCell slot s k = .next t) :
    s.inTape s.position ∧ k (s.cell s.position.toNat) = .next t ∨
      ¬s.inTape s.position ∧ t = s.raise .positionOutOfBounds slot s.position := by
  by_cases hp : s.inTape s.position
  · exact .inl ⟨hp, (onCell_in hp).symm.trans h⟩
  · rw [onCell_out hp] at h; injection h with h; exact .inr ⟨hp, h.symm⟩

/-- The truncation check answers either what follows or the fault. -/
theorem onOperand_cases {slot : Slot} {s t : State} {k : Result} (h : onOperand slot s k = .next t) :
    s.pc.toNat + 4 < s.len ∧ k = .next t ∨ t = s.raise .truncatedInstruction slot s.len := by
  by_cases hp : s.pc.toNat + 4 < s.len
  · exact .inl ⟨hp, (onOperand_in hp).symm.trans h⟩
  · rw [onOperand_out (by omega)] at h; injection h with h; exact .inr h.symm

/-! ### How a sub-operation ends, in the statements' terms -/

/-- The end of an instruction, from any state with the program and the run state of `s`. -/
theorem State.endInstr_ended {s u : State} (hl : u.len = s.len) (hr : u.rs = s.rs) (hx : u.exit = s.exit) (p : Word) :
    Ended p s (u.endInstr p) := by
  refine ⟨rfl, rfl, ?_⟩
  simp only [State.endInstr_rs, State.endInstr_exit, hl, hr, hx]
  split_ifs <;> exact ⟨rfl, rfl⟩

/-- The end of a plain code, from any state with the program, `pc` and run state of `s`. -/
theorem State.plainDone_ended {s u : State} (hl : u.len = s.len) (hp : u.pc = s.pc) (hr : u.rs = s.rs)
    (hx : u.exit = s.exit) (slot : Slot) : PlainEnded slot s (u.plainDone slot) := by
  cases slot with
  | one => exact ⟨hp, rfl, hr, hx⟩
  | two =>
    show Ended (s.pc + 1) s (u.endInstr (u.pc + 1))
    rw [hp]
    exact State.endInstr_ended hl hr hx _

/-- A fault, in the statements' terms. -/
theorem State.raise_raised (s : State) (c : Cause) (slot : Slot) (info : Int) :
    Raised c slot info s.waiting s (s.raise c slot info) := by
  cases slot <;> exact ⟨rfl, rfl, rfl, rfl, rfl, rfl, rfl, rfl, rfl, fun _ => rfl, rfl, rfl, rfl, rfl, rfl, rfl, rfl, rfl,
    rfl, rfl, rfl, rfl⟩

/-- The fault of a read the port did not serve. -/
theorem State.unblock_raise_raised (s : State) (c : Cause) (slot : Slot) (info : Int) :
    Raised c slot info false s (s.unblock.raise c slot info) := by
  cases slot <;> exact ⟨rfl, rfl, rfl, rfl, rfl, rfl, rfl, rfl, rfl, fun _ => rfl, rfl, rfl, rfl, rfl, rfl, rfl, rfl, rfl,
    rfl, rfl, rfl, rfl⟩

/-- A write of the current cell leaves the others. -/
theorem State.setCell_sameTapeBut {s : State} (h : s.tapeWf) (hp : s.inTape s.position) (v : Byte) :
    SameTapeBut s.position s (s.setCell v) := by
  intro a ha
  rw [State.setCell_cell h, if_neg]
  have := hp.1
  omega

/-- A write of the current cell is read back. -/
theorem State.setCell_current {s : State} (h : s.tapeWf) (v : Byte) : (s.setCell v).cell s.position.toNat = v := by
  rw [State.setCell_cell h, if_pos rfl]

/-- No way of ending touches a cell. -/
@[simp] theorem State.plainDone_cell (s : State) (slot : Slot) (a : Nat) : (s.plainDone slot).cell a = s.cell a := by
  cases slot <;> rfl

/-- What the end of a plain code leaves. -/
theorem State.plainDone_keeps (s : State) (slot : Slot) :
    (s.plainDone slot).position = s.position ∧ SameTape s (s.plainDone slot) ∧ SameFaultRegisters s (s.plainDone slot) ∧
      SamePort s (s.plainDone slot) ∧ SameSetup s (s.plainDone slot) := by
  cases slot <;> exact ⟨rfl, fun _ => rfl, ⟨rfl, rfl, rfl, rfl⟩, ⟨rfl, rfl, rfl⟩, rfl, rfl, rfl, rfl, rfl, rfl, rfl, rfl, rfl⟩

/-- What the end of an instruction leaves. -/
theorem State.endInstr_keeps (s : State) (p : Word) :
    (s.endInstr p).position = s.position ∧ SameTape s (s.endInstr p) ∧ SameFaultRegisters s (s.endInstr p) ∧
      SamePort s (s.endInstr p) ∧ SameSetup s (s.endInstr p) :=
  ⟨rfl, fun _ => rfl, ⟨rfl, rfl, rfl, rfl⟩, ⟨rfl, rfl, rfl⟩, rfl, rfl, rfl, rfl, rfl, rfl, rfl, rfl, rfl⟩

/-! ### The operand and the target -/

/-- The low byte is the operand modulo 256 (R89). -/
theorem lowByte_toNat (w : Word) : (lowByte w).toNat = w.toNat % 256 := by
  simp [lowByte]

/-- The target is the signed value of the operand (R91). -/
theorem target_eq_signedValue (w : Word) : target w = signedValue w := by
  simp only [target, BitVec.toInt_eq_toNat_cond, signedValue]
  split_ifs <;> omega

/-- The magnitude by cases on the sign (R90). -/
theorem magnitude_eq (w : Word) : magnitude w = if w.toNat < 2 ^ 31 then w.toNat else 2 ^ 32 - w.toNat := by
  have := w.isLt
  simp only [magnitude, BitVec.toInt_eq_toNat_cond]
  split_ifs <;> omega

/-- An accepted target is the operand's bits (R91). -/
theorem ofInt_target (w : Word) : BitVec.ofInt 32 (target w) = w := by
  simp [target]

/-- A target that is not negative is the operand's value. -/
theorem target_toNat {w : Word} (h : 0 ≤ target w) : (w.toNat : Int) = target w := by
  simp only [target, BitVec.toInt_eq_toNat_cond] at *
  split_ifs at * <;> omega

/-- The magnitude is at most 2^31 (R90). -/
theorem magnitude_le (w : Word) : magnitude w ≤ 2 ^ 31 := by
  simp only [magnitude, BitVec.toInt_eq_toNat_cond]
  have := w.isLt
  split_ifs <;> omega

end Sys2Proof.Machine
end

