-- ==== Sys2Proof/Laws/Exec.lean ====
section
/-! SUPPORT. Said once: everything an instruction can do. Every statement about all instructions cites `exec_ran`. -/

namespace Sys2Proof.Machine

/-- The effect of a sub-operation that completes, before it ends. -/
inductive Effect (i : Instr) (s : State) : State → Prop
  | test : i.op = .jz ∨ i.op = .jnz → s.inTape s.position → Effect i s s
  | set (v : Byte) : i.op ∈ [Op.inc, .dec, .addn, .subn] → s.inTape s.position → Effect i s (s.setCell v)
  | move (n : Int) : i.op ∈ [Op.right, .left, .rightn, .leftn] → (i.opnd = none → n.natAbs ≤ 1) → n.natAbs ≤ 2 ^ 31 →
      Effect i s (s.moveCursor n)
  | emit : i.op = .out → s.inTape s.position → Effect i s (s.emit (s.cell s.position.toNat))
  | take (v : Byte) : i.op = .input → s.inTape s.position → s.inStream[s.inConsumed]? = some v →
      Effect i s (s.consume.setCell v)

/-- How a sub-operation that completes ends. -/
inductive Finish (i : Instr) (s u : State) : State → Prop
  | plain : i.opnd = none → Finish i s u (u.plainDone i.slot)
  | through : i.opnd.isSome = true → s.pc.toNat + 4 < s.len → Finish i s u (u.endInstr (s.pc + 5))
  | jump (w : Word) : i.opnd.isSome = true → u = s → s.inTape s.position → 8 ≤ w.toNat → w.toNat ≤ s.len →
      Finish i s u (u.endInstr w)

/-- Everything an instruction can do. -/
inductive Ran (i : Instr) (s : State) : State → Prop
  | done {u t : State} : Effect i s u → Finish i s u t → Ran i s t
  | raised (c : Cause) (info : Int) : 3 ≤ c.code → (i.op = .input → c = .positionOutOfBounds ∧ ¬s.inTape s.position) →
      Ran i s (s.raise c i.slot info)
  | readFailed (c : Cause) (info : Int) : 7 ≤ c.code → i.op = .input → s.inTape s.position →
      Ran i s (s.unblock.raise c i.slot info)
  | waits : i.op = .input → s.inTape s.position → Ran i s s.block

/-- A taken jump: the target is in the program, or the fault. -/
theorem jumpTo_ran {i : Instr} {s t : State} {w : Word} (hop : i.op = .jz ∨ i.op = .jnz) (ho : i.opnd.isSome = true)
    (hp : s.inTape s.position) (h : jumpTo i.slot (target w) s = .next t) : Ran i s t := by
  simp only [jumpTo] at h
  split_ifs at h with ht
  · injection h with h; subst h
    exact .raised _ _ (by decide) (by rcases hop with hop | hop <;> simp [hop])
  · injection h with h; subst h
    rw [ofInt_target]
    have := target_toNat (w := w) (by omega)
    exact .done (.test hop hp) (.jump w ho rfl hp (by omega) (by omega))

theorem opInc_ran {i : Instr} {s t : State} (hop : i.op = .inc) (ho : i.opnd = none) (h : opInc i.slot s = .next t) :
    Ran i s t := by
  rcases onCell_cases h with ⟨hp, h⟩ | ⟨hp, rfl⟩
  · injection h with h; subst h; exact .done (.set _ (by simp [hop]) hp) (.plain ho)
  · exact .raised _ _ (by decide) (by simp [hop])

theorem opDec_ran {i : Instr} {s t : State} (hop : i.op = .dec) (ho : i.opnd = none) (h : opDec i.slot s = .next t) :
    Ran i s t := by
  rcases onCell_cases h with ⟨hp, h⟩ | ⟨hp, rfl⟩
  · injection h with h; subst h; exact .done (.set _ (by simp [hop]) hp) (.plain ho)
  · exact .raised _ _ (by decide) (by simp [hop])

theorem opRight_ran {i : Instr} {s t : State} (hop : i.op = .right) (ho : i.opnd = none)
    (h : opRight i.slot s = .next t) : Ran i s t := by
  injection h with h; subst h
  exact .done (.move 1 (by simp [hop]) (by simp) (by norm_num)) (.plain ho)

theorem opLeft_ran {i : Instr} {s t : State} (hop : i.op = .left) (ho : i.opnd = none)
    (h : opLeft i.slot s = .next t) : Ran i s t := by
  injection h with h; subst h
  exact .done (.move (-1) (by simp [hop]) (by simp) (by norm_num)) (.plain ho)

theorem opOut_ran {i : Instr} {s t : State} (hop : i.op = .out) (ho : i.opnd = none) (h : opOut i.slot s = .next t) :
    Ran i s t := by
  rcases onCell_cases h with ⟨hp, h⟩ | ⟨hp, rfl⟩
  · cases hw : s.writeAnswer <;> simp only [hw] at h <;> injection h with h <;> subst h
    · exact .done (.emit hop hp) (.plain ho)
    · exact .raised _ _ (by decide) (by simp [hop])
  · exact .raised _ _ (by decide) (by simp [hop])

/-- A byte the port answers is the next one of the stream. -/
theorem State.readAnswer_byte {s : State} {v : Byte} (h : s.readAnswer = .byte v) :
    s.inStream[s.inConsumed]? = some v := by
  cases hv : s.inStream[s.inConsumed]? with
  | some x =>
    simp only [State.readAnswer, hv] at h
    split_ifs at h
    injection h with h
    rw [h]
  | none =>
    simp only [State.readAnswer, hv] at h
    split_ifs at h

theorem opIn_ran {i : Instr} {s t : State} (hop : i.op = .input) (ho : i.opnd = none) (h : opIn i.slot s = .next t) :
    Ran i s t := by
  rcases onCell_cases h with ⟨hp, h⟩ | ⟨hp, rfl⟩
  · cases hr : s.readAnswer <;> simp only [hr] at h <;> injection h with h <;> subst h
    · exact .done (.take _ hop hp (State.readAnswer_byte hr)) (.plain ho)
    · exact .readFailed _ _ (by decide) hop hp
    · exact .readFailed _ _ (by decide) hop hp
    · exact .waits hop hp
  · exact .raised _ _ (by decide) (fun _ => ⟨rfl, hp⟩)

theorem opAddn_ran {i : Instr} {s t : State} {w : Word} (hop : i.op = .addn) (ho : i.opnd = some w)
    (h : opAddn i.slot w s = .next t) : Ran i s t := by
  rcases onOperand_cases h with ⟨hl, h⟩ | rfl
  · rcases onCell_cases h with ⟨hp, h⟩ | ⟨hp, rfl⟩
    · injection h with h; subst h
      exact .done (.set _ (by simp [hop]) hp) (.through (by simp [ho]) hl)
    · exact .raised _ _ (by decide) (by simp [hop])
  · exact .raised _ _ (by decide) (by simp [hop])

theorem opSubn_ran {i : Instr} {s t : State} {w : Word} (hop : i.op = .subn) (ho : i.opnd = some w)
    (h : opSubn i.slot w s = .next t) : Ran i s t := by
  rcases onOperand_cases h with ⟨hl, h⟩ | rfl
  · rcases onCell_cases h with ⟨hp, h⟩ | ⟨hp, rfl⟩
    · injection h with h; subst h
      exact .done (.set _ (by simp [hop]) hp) (.through (by simp [ho]) hl)
    · exact .raised _ _ (by decide) (by simp [hop])
  · exact .raised _ _ (by decide) (by simp [hop])

theorem opRightn_ran {i : Instr} {s t : State} {w : Word} (hop : i.op = .rightn) (ho : i.opnd = some w)
    (h : opRightn i.slot w s = .next t) : Ran i s t := by
  rcases onOperand_cases h with ⟨hl, h⟩ | rfl
  · injection h with h; subst h
    exact .done (.move _ (by simp [hop]) (by simp [ho]) (by have := magnitude_le w; omega)) (.through (by simp [ho]) hl)
  · exact .raised _ _ (by decide) (by simp [hop])

theorem opLeftn_ran {i : Instr} {s t : State} {w : Word} (hop : i.op = .leftn) (ho : i.opnd = some w)
    (h : opLeftn i.slot w s = .next t) : Ran i s t := by
  rcases onOperand_cases h with ⟨hl, h⟩ | rfl
  · injection h with h; subst h
    exact .done (.move _ (by simp [hop]) (by simp [ho]) (by have := magnitude_le w; omega)) (.through (by simp [ho]) hl)
  · exact .raised _ _ (by decide) (by simp [hop])

theorem opJz_ran {i : Instr} {s t : State} {w : Word} (hop : i.op = .jz) (ho : i.opnd = some w)
    (h : opJz i.slot w s = .next t) : Ran i s t := by
  rcases onOperand_cases h with ⟨hl, h⟩ | rfl
  · rcases onCell_cases h with ⟨hp, h⟩ | ⟨hp, rfl⟩
    · split_ifs at h
      · exact jumpTo_ran (.inl hop) (by simp [ho]) hp h
      · injection h with h; subst h
        exact .done (.test (.inl hop) hp) (.through (by simp [ho]) hl)
    · exact .raised _ _ (by decide) (by simp [hop])
  · exact .raised _ _ (by decide) (by simp [hop])

theorem opJnz_ran {i : Instr} {s t : State} {w : Word} (hop : i.op = .jnz) (ho : i.opnd = some w)
    (h : opJnz i.slot w s = .next t) : Ran i s t := by
  rcases onOperand_cases h with ⟨hl, h⟩ | rfl
  · rcases onCell_cases h with ⟨hp, h⟩ | ⟨hp, rfl⟩
    · split_ifs at h
      · exact jumpTo_ran (.inr hop) (by simp [ho]) hp h
      · injection h with h; subst h
        exact .done (.test (.inr hop) hp) (.through (by simp [ho]) hl)
    · exact .raised _ _ (by decide) (by simp [hop])
  · exact .raised _ _ (by decide) (by simp [hop])

theorem reserved_ran {i : Instr} {s t : State} {b : Byte} (hop : i.op ≠ .input) (h : reserved i.slot b s = .next t) :
    Ran i s t := by
  injection h with h; subst h
  exact .raised _ _ (by decide) (fun h => absurd h hop)

/-- The inversion lemma: what an instruction did, if it answered a next state. -/
theorem exec_ran {i : Instr} {s t : State} (h : exec i s = .next t) : Ran i s t := by
  cases i with
  | incS1 | incS2 => exact opInc_ran rfl rfl h
  | decS1 | decS2 => exact opDec_ran rfl rfl h
  | rightS1 | rightS2 => exact opRight_ran rfl rfl h
  | leftS1 | leftS2 => exact opLeft_ran rfl rfl h
  | outS1 | outS2 => exact opOut_ran rfl rfl h
  | inS1 | inS2 => exact opIn_ran rfl rfl h
  | addnX | addnPX => exact opAddn_ran rfl rfl h
  | subnX | subnPX => exact opSubn_ran rfl rfl h
  | rightnX | rightnPX => exact opRightn_ran rfl rfl h
  | leftnX | leftnPX => exact opLeftn_ran rfl rfl h
  | jzX | jzPX => exact opJz_ran rfl rfl h
  | jnzX | jnzPX => exact opJnz_ran rfl rfl h
  | rsvp4S1 | rsvp5S1 | rsvp4S2 | rsvp5S2 | rsvpeS2 | rsvx6X | rsvx7X | rsvx7PX =>
    exact reserved_ran (by simp [Instr.op]) h

end Sys2Proof.Machine
end

