-- ==== Sys2Proof/Laws/PerInstr.lean ====
section
/-! SUPPORT. The opcode table, row by row: the header byte that the encoder writes has its row's fixed bits, and the bytes it
writes are as many as the row spans. -/

namespace Sys2Proof.Laws.TableRow

/-- A row of spec/opcode_table.json: `match`, `mask` and the number of bytes its encoding spans. -/
structure Row where
  fixed : Byte
  mask : Byte
  bytes : Nat
  deriving DecidableEq, Repr

/-- The row of a constructor, copied from spec/opcode_table.json. -/
def row : Instr → Row
  | .incS1 _ => ⟨0x00, 0xF0, 1⟩
  | .decS1 _ => ⟨0x10, 0xF0, 1⟩
  | .rightS1 _ => ⟨0x20, 0xF0, 1⟩
  | .leftS1 _ => ⟨0x30, 0xF0, 1⟩
  | .rsvp4S1 _ => ⟨0x40, 0xF0, 1⟩
  | .rsvp5S1 _ => ⟨0x50, 0xF0, 1⟩
  | .outS1 _ => ⟨0x60, 0xF0, 1⟩
  | .inS1 _ => ⟨0x70, 0xF0, 1⟩
  | .incS2 _ => ⟨0x00, 0x8F, 1⟩
  | .decS2 _ => ⟨0x01, 0x8F, 1⟩
  | .rightS2 _ => ⟨0x02, 0x8F, 1⟩
  | .leftS2 _ => ⟨0x03, 0x8F, 1⟩
  | .rsvp4S2 _ => ⟨0x04, 0x8F, 1⟩
  | .rsvp5S2 _ => ⟨0x05, 0x8F, 1⟩
  | .outS2 _ => ⟨0x06, 0x8F, 1⟩
  | .inS2 _ => ⟨0x07, 0x8F, 1⟩
  | .rsvpeS2 _ => ⟨0x0E, 0x8F, 1⟩
  | .addnX _ => ⟨0x80, 0xF0, 5⟩
  | .subnX _ => ⟨0x90, 0xF0, 5⟩
  | .rightnX _ => ⟨0xA0, 0xF0, 5⟩
  | .leftnX _ => ⟨0xB0, 0xF0, 5⟩
  | .jzX _ => ⟨0xC0, 0xF0, 5⟩
  | .jnzX _ => ⟨0xD0, 0xF0, 5⟩
  | .rsvx6X _ => ⟨0xE0, 0xF0, 5⟩
  | .rsvx7X _ => ⟨0xF0, 0xF0, 5⟩
  | .addnPX _ _ => ⟨0x08, 0x8F, 5⟩
  | .subnPX _ _ => ⟨0x09, 0x8F, 5⟩
  | .rightnPX _ _ => ⟨0x0A, 0x8F, 5⟩
  | .leftnPX _ _ => ⟨0x0B, 0x8F, 5⟩
  | .jzPX _ _ => ⟨0x0C, 0x8F, 5⟩
  | .jnzPX _ _ => ⟨0x0D, 0x8F, 5⟩
  | .rsvx7PX _ => ⟨0x0F, 0x8F, 5⟩

/-- The encoding agrees with the row. -/
def Statement (i : Instr) : Prop := i.header &&& (row i).mask = (row i).fixed ∧ (encode i).length = (row i).bytes

theorem incS1 (c2 : Nibble) : Statement (.incS1 c2) := ⟨by revert c2; decide, rfl⟩
theorem decS1 (c2 : Nibble) : Statement (.decS1 c2) := ⟨by revert c2; decide, rfl⟩
theorem rightS1 (c2 : Nibble) : Statement (.rightS1 c2) := ⟨by revert c2; decide, rfl⟩
theorem leftS1 (c2 : Nibble) : Statement (.leftS1 c2) := ⟨by revert c2; decide, rfl⟩
theorem rsvp4S1 (c2 : Nibble) : Statement (.rsvp4S1 c2) := ⟨by revert c2; decide, rfl⟩
theorem rsvp5S1 (c2 : Nibble) : Statement (.rsvp5S1 c2) := ⟨by revert c2; decide, rfl⟩
theorem outS1 (c2 : Nibble) : Statement (.outS1 c2) := ⟨by revert c2; decide, rfl⟩
theorem inS1 (c2 : Nibble) : Statement (.inS1 c2) := ⟨by revert c2; decide, rfl⟩
theorem incS2 (code1 : Code) : Statement (.incS2 code1) := ⟨by revert code1; decide, rfl⟩
theorem decS2 (code1 : Code) : Statement (.decS2 code1) := ⟨by revert code1; decide, rfl⟩
theorem rightS2 (code1 : Code) : Statement (.rightS2 code1) := ⟨by revert code1; decide, rfl⟩
theorem leftS2 (code1 : Code) : Statement (.leftS2 code1) := ⟨by revert code1; decide, rfl⟩
theorem rsvp4S2 (code1 : Code) : Statement (.rsvp4S2 code1) := ⟨by revert code1; decide, rfl⟩
theorem rsvp5S2 (code1 : Code) : Statement (.rsvp5S2 code1) := ⟨by revert code1; decide, rfl⟩
theorem outS2 (code1 : Code) : Statement (.outS2 code1) := ⟨by revert code1; decide, rfl⟩
theorem inS2 (code1 : Code) : Statement (.inS2 code1) := ⟨by revert code1; decide, rfl⟩
theorem rsvpeS2 (code1 : Code) : Statement (.rsvpeS2 code1) := ⟨by revert code1; decide, rfl⟩
theorem addnX (opnd : Word) : Statement (.addnX opnd) :=
  ⟨by show headerByte true 0 0 &&& 0xF0#8 = 0x80#8; decide, rfl⟩
theorem subnX (opnd : Word) : Statement (.subnX opnd) :=
  ⟨by show headerByte true 1 0 &&& 0xF0#8 = 0x90#8; decide, rfl⟩
theorem rightnX (opnd : Word) : Statement (.rightnX opnd) :=
  ⟨by show headerByte true 2 0 &&& 0xF0#8 = 0xA0#8; decide, rfl⟩
theorem leftnX (opnd : Word) : Statement (.leftnX opnd) :=
  ⟨by show headerByte true 3 0 &&& 0xF0#8 = 0xB0#8; decide, rfl⟩
theorem jzX (opnd : Word) : Statement (.jzX opnd) :=
  ⟨by show headerByte true 4 0 &&& 0xF0#8 = 0xC0#8; decide, rfl⟩
theorem jnzX (opnd : Word) : Statement (.jnzX opnd) :=
  ⟨by show headerByte true 5 0 &&& 0xF0#8 = 0xD0#8; decide, rfl⟩
theorem rsvx6X (pad : Nibble) : Statement (.rsvx6X pad) := ⟨by revert pad; decide, rfl⟩
theorem rsvx7X (pad : Nibble) : Statement (.rsvx7X pad) := ⟨by revert pad; decide, rfl⟩
theorem addnPX (code1 : Code) (opnd : Word) : Statement (.addnPX code1 opnd) :=
  ⟨by show headerByte false code1 8 &&& 0x8F#8 = 0x08#8; clear opnd; revert code1; decide, rfl⟩
theorem subnPX (code1 : Code) (opnd : Word) : Statement (.subnPX code1 opnd) :=
  ⟨by show headerByte false code1 9 &&& 0x8F#8 = 0x09#8; clear opnd; revert code1; decide, rfl⟩
theorem rightnPX (code1 : Code) (opnd : Word) : Statement (.rightnPX code1 opnd) :=
  ⟨by show headerByte false code1 10 &&& 0x8F#8 = 0x0A#8; clear opnd; revert code1; decide, rfl⟩
theorem leftnPX (code1 : Code) (opnd : Word) : Statement (.leftnPX code1 opnd) :=
  ⟨by show headerByte false code1 11 &&& 0x8F#8 = 0x0B#8; clear opnd; revert code1; decide, rfl⟩
theorem jzPX (code1 : Code) (opnd : Word) : Statement (.jzPX code1 opnd) :=
  ⟨by show headerByte false code1 12 &&& 0x8F#8 = 0x0C#8; clear opnd; revert code1; decide, rfl⟩
theorem jnzPX (code1 : Code) (opnd : Word) : Statement (.jnzPX code1 opnd) :=
  ⟨by show headerByte false code1 13 &&& 0x8F#8 = 0x0D#8; clear opnd; revert code1; decide, rfl⟩
theorem rsvx7PX (code1 : Code) : Statement (.rsvx7PX code1) := ⟨by revert code1; decide, rfl⟩

end Sys2Proof.Laws.TableRow
end

