-- ==== Sys2Proof/Laws/Step.lean ====
section
/-! SUPPORT. Said once: what a step can do, and how the bytes at `pc` are read. -/

namespace Sys2Proof.Machine

/-- The bytes from an offset that holds a byte. -/
theorem State.bytesFrom_of_fetch {s : State} {a : Nat} {b : Byte} (h : s.fetch a = some b) :
    s.bytesFrom a = b :: s.bytesFrom (a + 1) := by
  obtain ⟨hl, hb⟩ := List.getElem?_eq_some_iff.mp h
  rw [State.bytesFrom, List.drop_eq_getElem_cons hl, hb]
  rfl

/-- A byte exists exactly inside the program (R51). -/
theorem State.fetch_isSome {s : State} {a : Nat} : (s.fetch a).isSome = true ↔ a < s.len := by
  simp [State.fetch, State.len]

/-- A step of a running core with no buffer presented. -/
theorem step_running {s : State} (hl : s.loadRequest = none) (hr : s.rs = .running) : step s = stepRunning s := by
  simp [step, sequenceStep, hl, hr]

/-- A step with a run presented is its load. -/
theorem step_load {s : State} {run : Presented} (hl : s.loadRequest = some run) : step s = load run := by
  simp [step, sequenceStep, hl]

/-- The inversion lemma of the load: a load error, by its length or by its magic, or a good load. -/
theorem load_cases {run : Presented} {t : State} (h : load run = .next t) :
    run.prog.length ≤ Config.maxLength ∧
      ((run.prog.length < 8 ∧ t = loadFail .fileTooSmall run) ∨
       (8 ≤ run.prog.length ∧ variantOf (fetch32 run.prog 0) = none ∧ t = loadFail .badMagic run) ∨
       (8 ≤ run.prog.length ∧ ∃ variant, variantOf (fetch32 run.prog 0) = some variant ∧ t = loadGood variant run)) := by
  simp only [load] at h
  split_ifs at h with h1 h2
  · injection h with h
    exact ⟨by omega, .inl ⟨by simpa [Config.headerLength] using h2, h.symm⟩⟩
  · have h2 : 8 ≤ run.prog.length := by simpa [Config.headerLength] using h2
    refine ⟨by omega, .inr ?_⟩
    cases hv : variantOf (fetch32 run.prog 0) with
    | none => rw [hv] at h; injection h with h; exact .inl ⟨h2, rfl, h.symm⟩
    | some variant => rw [hv] at h; injection h with h; exact .inr ⟨h2, variant, rfl, h.symm⟩

/-- A running core runs the decoded packet. -/
theorem step_packet {s : State} {p : Packet} (hl : s.loadRequest = none) (hr : s.rs = .running) (hpc : 8 ≤ s.pc.toNat)
    (hd : s.instructionAtPc = .ok p) : step s = runPacket p s := by
  rw [step_running hl hr, stepRunning, if_neg (by simp [Config.headerLength]; omega), hd]

/-- Slot 1 ended the packet. -/
theorem runPacket_one {p : Packet} {s u : State} (hs : s.slot = .one) (h : exec p.first s = .next u) (hu : u.slot = .one) :
    runPacket p s = .next u := by
  simp only [runPacket, hs, h, afterFirst, hu]

/-- Slot 1 went on to slot 2. -/
theorem runPacket_two {p : Packet} {s u : State} {i : Instr} (hs : s.slot = .one) (h : exec p.first s = .next u)
    (hu : u.slot = .two) (hi : p.second = some i) : runPacket p s = exec i u := by
  simp only [runPacket, hs, h, afterFirst, hu, runSecond, hi]

/-- The inversion lemma of a step that loads nothing: slot 1 ended the step, or slot 2 ran after it, or slot 2 alone. -/
theorem step_ran {s t : State} (hl : s.loadRequest = none) (h : step s = .next t) :
    s.rs = .running ∧ 8 ≤ s.pc.toNat ∧ ∃ p, s.instructionAtPc = .ok p ∧
      ((s.slot = .one ∧ exec p.first s = .next t ∧ t.slot = .one) ∨
       (s.slot = .one ∧ ∃ u i, exec p.first s = .next u ∧ u.slot = .two ∧ p.second = some i ∧ exec i u = .next t) ∨
       (s.slot = .two ∧ ∃ i, p.second = some i ∧ exec i s = .next t)) := by
  have hr : s.rs = .running := by
    cases hr : s.rs <;> simp [step, sequenceStep, hl, hr] at h ⊢
  rw [step_running hl hr, stepRunning] at h
  split_ifs at h with hpc
  have hpc : 8 ≤ s.pc.toNat := by simp [Config.headerLength] at hpc; omega
  refine ⟨hr, hpc, ?_⟩
  cases hd : s.instructionAtPc with
  | error e => rw [hd] at h; cases e <;> simp at h
  | ok p =>
    rw [hd] at h
    refine ⟨p, rfl, ?_⟩
    have second : ∀ u, runSecond p u = .next t → ∃ i, p.second = some i ∧ exec i u = .next t := by
      intro u hu
      cases hs : p.second with
      | none => simp [runSecond, hs] at hu
      | some i => exact ⟨i, rfl, by simpa [runSecond, hs] using hu⟩
    cases hs : s.slot with
    | two => exact .inr (.inr ⟨rfl, second s (by simpa [runPacket, hs] using h)⟩)
    | one =>
      simp only [runPacket, hs] at h
      cases he : exec p.first s with
      | fault r => simp [he, afterFirst] at h
      | refused r => simp [he, afterFirst] at h
      | next u =>
        simp only [he, afterFirst] at h
        cases hu : u.slot with
        | one =>
          simp only [hu] at h
          injection h with h; subst h
          exact .inl ⟨rfl, rfl, hu⟩
        | two =>
          simp only [hu] at h
          obtain ⟨i, hi, h⟩ := second u h
          exact .inr (.inl ⟨rfl, u, i, rfl, hu, hi, h⟩)

end Sys2Proof.Machine
end

