-- ==== Sys2Proof/Tests/Slice0.lean ====
section
/-! SUPPORT. Tests: the well-formedness checks, decoding of words written out from the spec's encodings, one step of each
instruction with the result that spec/95_test_vectors.md gives (the vector's name stands in each docstring), and for each
obligation with hypotheses a state that meets them. -/

namespace Sys2Proof.Tests

open Sys2Proof Sys2Proof.Machine

/-- A run of a buffer with no input yet. -/
def runOf (buffer : List Byte) : Presented := ⟨buffer, [], false, none, none⟩

/-- A core that has loaded a BF header of `n` cells and this code (32-bit `memsize`, R62). -/
def bf (n : Byte) (code : List Byte) : State := loadGood .bf (runOf ([0xFF, 0x6D, 0x68, 0xFD, 0, 0, 0, n] ++ code))

/-- The same core with the first cell written. -/
def State.withCell (s : State) (v : Byte) : State := { s with tape := [(0, v)] }

/-- The same core with input and no more to come. -/
def State.withInput (s : State) (bytes : List Byte) : State := { s with inStream := bytes, inEnded := true }

/-- The answer is a next state that looks so. -/
def shows (r : Result) (look : State → Bool) : Bool :=
  match r with
  | .next t => look t
  | .fault _ => false
  | .refused _ => false

/-- A recorded fault: cause code, `FAULT_SLOT`, `FAULT_INFO`. -/
def faultIs (t : State) (code : Nat) (slot : Fin 3) (info : Int) : Bool :=
  t.rs == .faulted && t.cause.code == code && t.faultPc == t.pc && t.faultSlot == slot && t.faultInfo == info

/-! ### Well-formedness: a term that each check refuses, and one that all accept -/

theorem test_wf_accepts : (Packet.mk (.decS1 2) (some (.rightS2 1))).wf = true ∧ (Packet.mk (.addnX 5) none).wf = true := by
  decide

theorem test_wf_firstInSlotOne : (Packet.mk (.incS2 0) none).firstInSlotOne = false ∧ (Packet.mk (.incS2 0) none).wf = false := by
  decide

theorem test_wf_secondAsShapeSays :
    (Packet.mk (.incS1 0) none).secondAsShapeSays = false ∧ (Packet.mk (.incS1 0) none).wf = false ∧
      (Packet.mk (.addnX 0) (some (.incS2 0))).secondAsShapeSays = false := by decide

theorem test_wf_oneHeaderByte :
    (Packet.mk (.incS1 1) (some (.incS2 0))).oneHeaderByte = false ∧ (Packet.mk (.incS1 1) (some (.incS2 0))).wf = false := by
  decide

/-! ### Decoding: words written out from 30_encoding.md (R84 to R86, R95, R96) and the table of 95_test_vectors.md 2.1 -/

theorem test_decode_slot_one :
    decode [0b00000111#8] = .ok ⟨.incS1 7, some (.inS2 0)⟩ ∧ decode [0b00010000#8] = .ok ⟨.decS1 0, some (.incS2 1)⟩ ∧
    decode [0b00100001#8] = .ok ⟨.rightS1 1, some (.decS2 2)⟩ ∧ decode [0b00110010#8] = .ok ⟨.leftS1 2, some (.rightS2 3)⟩ ∧
    decode [0b01000111#8] = .ok ⟨.rsvp4S1 7, some (.inS2 4)⟩ ∧ decode [0b01010011#8] = .ok ⟨.rsvp5S1 3, some (.leftS2 5)⟩ ∧
    decode [0b01100110#8] = .ok ⟨.outS1 6, some (.outS2 6)⟩ ∧ decode [0b01110100#8] = .ok ⟨.inS1 4, some (.rsvp4S2 7)⟩ := by
  decide

theorem test_decode_slot_two :
    decodeAt .two [0b01100000#8] = some (.incS2 6) ∧ decodeAt .two [0b00000001#8] = some (.decS2 0) ∧
    decodeAt .two [0b01110010#8] = some (.rightS2 7) ∧ decodeAt .two [0b00110011#8] = some (.leftS2 3) ∧
    decodeAt .two [0b00000100#8] = some (.rsvp4S2 0) ∧ decodeAt .two [0b01010101#8] = some (.rsvp5S2 5) ∧
    decodeAt .two [0b00010110#8] = some (.outS2 1) ∧ decodeAt .two [0b01110111#8] = some (.inS2 7) ∧
    decodeAt .two [0b01111110#8] = some (.rsvpeS2 7) := by decide

theorem test_decode_shape_x :
    decode [0b10001011#8, 0x12, 0x34, 0x56, 5] = .ok ⟨.addnX 0x12345605, none⟩ ∧
    decode [0b10011111#8, 0, 0, 0, 1] = .ok ⟨.subnX 1, none⟩ ∧
    decode [0b10100000#8, 0x80, 0, 0, 0] = .ok ⟨.rightnX 0x80000000, none⟩ ∧
    decode [0b10110111#8, 0, 1, 0, 0] = .ok ⟨.leftnX 0x10000, none⟩ ∧
    decode [0b11000000#8, 0, 0, 1, 0] = .ok ⟨.jzX 0x100, none⟩ ∧
    decode [0b11011111#8, 0, 0, 0, 0xFF] = .ok ⟨.jnzX 255, none⟩ ∧
    decode [0b11101110#8, 1, 2, 3, 4] = .ok ⟨.rsvx6X 14, none⟩ ∧ decode [0b11110011#8] = .ok ⟨.rsvx7X 3, none⟩ := by decide

theorem test_decode_shape_px :
    decode [0b01111000#8, 0, 0, 0, 1] = .ok ⟨.inS1 8, some (.addnPX 7 1)⟩ ∧
    decode [0b00001001#8, 0, 0, 0, 2] = .ok ⟨.incS1 9, some (.subnPX 0 2)⟩ ∧
    decode [0b00101010#8, 0, 0, 1, 0] = .ok ⟨.rightS1 10, some (.rightnPX 2 256)⟩ ∧
    decode [0b00011011#8, 0xFF, 0xFF, 0xFF, 0xFF] = .ok ⟨.decS1 11, some (.leftnPX 1 0xFFFFFFFF)⟩ ∧
    decode [0b01001100#8, 0, 0, 0, 8] = .ok ⟨.rsvp4S1 12, some (.jzPX 4 8)⟩ ∧
    decode [0b00111101#8, 0, 0, 0, 18] = .ok ⟨.leftS1 13, some (.jnzPX 3 18)⟩ ∧
    decode [0b01101111#8] = .ok ⟨.outS1 15, some (.rsvx7PX 6)⟩ := by decide

theorem test_decode_rejects_nothing : decode [] = .error .noHeaderByte := by decide

/-- The whole map, R82 and R83: of 16 low nibbles, all 16 give 5 bytes after a high nibble from 8 on (128 of shape X), and 7
after a lower one (56 of PX, 72 of PP). -/
theorem test_decode_counts :
    ∀ c1 : Nibble, ((List.range 16).countP fun n => (decodeHeader (c1 ++ BitVec.ofNat 4 n)).length == 5) =
      if 8 ≤ c1.toNat then 16 else 7 := by decide

/-! ### The host's table words -/

theorem test_table_words :
    decodeTableWord 8 0x10 = some (.decS1 0) ∧ decodeTableWord 8 0x01 = some (.decS2 0) ∧
    decodeTableWord 8 0x0E = some (.rsvpeS2 0) ∧ decodeTableWord 40 0x05000000D0 = some (.jnzX 5) ∧
    decodeTableWord 40 0x0500000008 = some (.addnPX 0 5) := by decide

/-- The first step after reset with a word placed runs it, as a program that was loaded (log 6). -/
theorem test_withFetchWord :
    shows (step (State.reset.withFetchWord 8 0x10)) (fun t => t.rs == .running && t.pc == 9 && t.cell 0 == 0) = true ∧
    shows (step (State.reset.withFetchWord 40 0x0500000080)) (fun t => t.rs == .halted && t.pc == 13 && t.cell 0 == 5) = true := by
  decide

/-! ### Plain codes (95_test_vectors.md 2.2) -/

/-- P-1: `INC ; INC`. -/
theorem test_inc_inc : shows (step (bf 2 [0x00])) (fun t => t.rs == .halted && t.pc == 9 && t.cell 0 == 2) = true := by decide

/-- X-A3, its second instruction: 255 wraps to 0, and the cell is no longer listed. -/
theorem test_inc_wraps : shows (exec (.incS1 0) (State.withCell (bf 1 [0x00]) 255)) (fun t => t.tape == [] && t.slot == .two) = true := by
  decide

/-- P-2: `DEC ; RIGHT`. -/
theorem test_dec_right : shows (step (bf 2 [0x12])) (fun t => t.cell 0 == 255 && t.position == 1 && t.exit == some .success) = true := by
  decide

/-- R152, by hand: `OUT ; DEC` writes the old value, then the cell is one less. -/
theorem test_out_dec : shows (step (State.withCell (bf 1 [0x61]) 65)) (fun t => t.outStream == [65] && t.cell 0 == 64) = true := by
  decide

/-- P-3: `RIGHT ; INC`. -/
theorem test_right_inc : shows (step (bf 2 [0x20])) (fun t => t.cell 0 == 0 && t.cell 1 == 1 && t.position == 1) = true := by decide

/-- P-4: `LEFT ; RIGHT`, through -1. -/
theorem test_left_right : shows (step (bf 2 [0x32])) (fun t => t.rs == .halted && t.position == 0) = true := by decide

/-- P-15: `RIGHT ; LEFT` with no cell at all. -/
theorem test_right_left : shows (step (bf 0 [0x23])) (fun t => t.rs == .halted && t.position == 0) = true := by decide

/-- P-6: `LEFT ; INC`. -/
theorem test_left_inc_faults : shows (step (bf 2 [0x30])) (fun t => faultIs t 3 2 (-1) && t.pc == 8 && t.position == -1) = true := by
  decide

/-- P-16: `INC` with no cell. -/
theorem test_inc_faults : shows (step (bf 0 [0x00])) (fun t => faultIs t 3 1 0) = true := by decide

/-- P-8, its second instruction: `OUT ; INC`. -/
theorem test_out_inc : shows (step (State.withCell (bf 1 [0x60]) 0x41)) (fun t => t.outStream == [0x41] && t.cell 0 == 66) = true := by
  decide

/-- P-14, its first instruction: `DEC ; OUT`. -/
theorem test_dec_out : shows (step (bf 1 [0x16, 0x06])) (fun t => t.outStream == [0xFF] && t.rs == .running && t.pc == 9) = true := by
  decide

/-- P-9: `IN ; OUT`. -/
theorem test_in_out :
    shows (step (State.withInput (bf 1 [0x76]) [0x41])) (fun t => t.cell 0 == 65 && t.outStream == [0x41] && t.inConsumed == 1) = true := by
  decide

/-- P-10: `IN ; IN`. -/
theorem test_in_in : shows (step (State.withInput (bf 1 [0x77]) [1, 2, 3])) (fun t => t.cell 0 == 2 && t.inConsumed == 2) = true := by
  decide

/-- P-12: `OUT ; IN` at the end of input. -/
theorem test_out_in_end :
    shows (step (State.withInput (bf 1 [0x67]) [])) (fun t => faultIs t 7 2 0 && t.outStream == [0] && t.inConsumed == 0) = true := by
  decide

/-- P-13: `LEFT ; IN` consumes nothing. -/
theorem test_left_in_faults :
    shows (step (State.withInput (bf 1 [0x37]) [0x55])) (fun t => faultIs t 3 2 (-1) && t.inConsumed == 0) = true := by decide

/-- IO-2, its second instruction: write 1 fails. -/
theorem test_out_write_fails :
    shows (step { State.withCell (bf 1 [0x66]) 65 with writeFailAt := some 0 }) (fun t => faultIs t 8 1 0 && t.outStream == []) = true := by
  decide

/-- IO-3, its second instruction: write 2 fails. -/
theorem test_out_second_write_fails :
    shows (step { State.withCell (bf 1 [0x66]) 65 with writeFailAt := some 1 }) (fun t => faultIs t 8 2 0 && t.outStream == [65]) = true := by
  decide

/-- IO-4: read 1 fails. -/
theorem test_in_read_fails :
    shows (step { State.withInput (bf 1 [0x70]) [9] with readFailAt := some 0 })
      (fun t => faultIs t 8 1 0 && t.cell 0 == 0 && t.inConsumed == 0) = true := by decide

/-- IO-5: read 2 fails. -/
theorem test_in_second_read_fails :
    shows (step { State.withInput (bf 1 [0x77]) [9, 8] with readFailAt := some 1 })
      (fun t => faultIs t 8 2 0 && t.cell 0 == 9 && t.inConsumed == 1) = true := by decide

/-- 2.7, waiting: `OUT ; IN` with no byte yet. -/
theorem test_in_waits :
    shows (step (bf 1 [0x67]))
      (fun t => t.rs == .running && t.pc == 8 && t.outStream == [0] && t.inConsumed == 0 && t.waiting && t.slot == .two) = true := by
  decide

/-- P-R2, P-R3: reserved codes of slot 1. -/
theorem test_reserved_slot_one :
    shows (step (bf 1 [0x40])) (fun t => faultIs t 5 1 64 && t.cell 0 == 0) = true ∧
    shows (step (bf 1 [0x55])) (fun t => faultIs t 5 1 85) = true := by decide

/-- P-R1, P-R6 and, by R157, `INC ; RSVP5`: reserved codes of slot 2. -/
theorem test_reserved_slot_two :
    shows (step (bf 1 [0x04])) (fun t => faultIs t 5 2 4 && t.cell 0 == 1) = true ∧
    shows (step (bf 1 [0x05])) (fun t => faultIs t 5 2 5 && t.cell 0 == 1) = true ∧
    shows (step (bf 1 [0x0E])) (fun t => faultIs t 5 2 14 && t.cell 0 == 1) = true := by decide

/-! ### Extended opcodes (95_test_vectors.md 2.3 to 2.6) -/

/-- S8b: `ADDN 5` with ignored bits set. -/
theorem test_addn : shows (step (bf 1 [0x8B, 0x12, 0x34, 0x56, 5])) (fun t => t.cell 0 == 5 && t.pc == 13 && t.rs == .halted) = true := by
  decide

/-- X-A2, its second instruction: 200 + 100. -/
theorem test_addn_wraps : shows (step (State.withCell (bf 1 [0x80, 0, 0, 0, 0x64]) 200)) (fun t => t.cell 0 == 44) = true := by decide

/-- X-A6, X-A7 (second instruction): `SUBN`. -/
theorem test_subn :
    shows (step (bf 1 [0x90, 0, 0, 0, 0xFF])) (fun t => t.cell 0 == 1) = true ∧
    shows (step (State.withCell (bf 1 [0x90, 0, 0, 0, 0x0A]) 5)) (fun t => t.cell 0 == 251) = true := by decide

/-- X-M2, X-M3: `RIGHTN` of a negative operand and of the largest magnitude. -/
theorem test_rightn :
    shows (step (bf 4 [0xA0, 0xFF, 0xFF, 0xFF, 0xFF])) (fun t => t.position == 1) = true ∧
    shows (step (bf 4 [0xA0, 0x80, 0, 0, 0])) (fun t => t.position == 2147483648 && t.rs == .halted) = true := by decide

/-- X-M5 (first instruction), X-M4 (second instruction): `LEFTN`. -/
theorem test_leftn :
    shows (step (bf 4 [0xB0, 0, 0, 0, 2])) (fun t => t.position == -2 && t.rs == .halted) = true ∧
    shows (step { bf 4 [0xB0, 0xFF, 0xFF, 0xFF, 0xFF] with position := 3 }) (fun t => t.position == 2) = true := by decide

/-- X-J1, X-J3: `JZ` to the end and into the header. -/
theorem test_jz :
    shows (step (bf 1 [0xC0, 0, 0, 0, 0x0D])) (fun t => t.pc == 13 && t.rs == .halted && t.exit == some .success) = true ∧
    shows (step (bf 1 [0xC0, 0, 0, 0, 7])) (fun t => faultIs t 4 1 7 && t.pc == 8) = true := by decide

/-- X-J2, X-J4: targets above the end and below 0. -/
theorem test_jz_out_of_bounds :
    shows (step (bf 1 [0xC0, 0, 0, 0, 0x0E])) (fun t => faultIs t 4 1 14) = true ∧
    shows (step (bf 1 [0xC0, 0xFF, 0xFF, 0xFF, 0xF8])) (fun t => faultIs t 4 1 (-8)) = true := by decide

/-- X-J6, X-J13 (second instruction, at offset 8): `JNZ` not taken and taken. -/
theorem test_jnz :
    shows (step (bf 1 [0xD0, 0, 0, 0, 0])) (fun t => t.pc == 13 && t.rs == .halted) = true ∧
    shows (step (State.withCell (bf 1 [0xD0, 0, 0, 0, 8]) 2)) (fun t => t.pc == 8 && t.rs == .running) = true := by decide

/-- X-J7, X-J8 (second instruction): the cell is read first. -/
theorem test_jumps_read_the_cell :
    shows (step (bf 0 [0xD0, 0, 0, 0, 8])) (fun t => faultIs t 3 1 0) = true ∧
    shows (step { bf 1 [0xC0, 0xFF, 0xFF, 0xFF, 0xFF] with position := -2 }) (fun t => faultIs t 3 1 (-2)) = true := by decide

/-- X-A8, X-A9: `INC ; ADDN 5`, `DEC ; SUBN 1`. -/
theorem test_px_arithmetic :
    shows (step (bf 1 [0x08, 0, 0, 0, 5])) (fun t => t.cell 0 == 6 && t.pc == 13) = true ∧
    shows (step (bf 1 [0x19, 0, 0, 0, 1])) (fun t => t.cell 0 == 254 && t.pc == 13) = true := by decide

/-- X-M9 (first instruction) and, by R127 and R176, `RIGHT ; LEFTN 2`. -/
theorem test_px_moves :
    shows (step (bf 4 [0x2A, 0, 0, 0, 2, 0])) (fun t => t.position == 3 && t.pc == 13 && t.rs == .running) = true ∧
    shows (step (bf 4 [0x2B, 0, 0, 0, 2])) (fun t => t.position == -1) = true := by decide

/-- X-J11, X-J12 (first instructions): `INC ; JZ 18` falls through, `DEC ; JNZ 18` is taken. -/
theorem test_px_jumps :
    shows (step (bf 1 [0x0C, 0, 0, 0, 0x12, 0x80, 0, 0, 0, 7, 6])) (fun t => t.pc == 13 && t.cell 0 == 1) = true ∧
    shows (step (bf 1 [0x1D, 0, 0, 0, 0x12, 0x80, 0, 0, 0, 7, 6])) (fun t => t.pc == 18 && t.cell 0 == 255) = true := by decide

/-- X-T1, X-T2, X-T4 (second instruction): the last byte of the operand, missing and there. -/
theorem test_truncated :
    shows (step (bf 1 [0x80, 0, 0, 0])) (fun t => faultIs t 6 1 12 && t.cell 0 == 0) = true ∧
    shows (step (bf 1 [0x80, 0, 0, 0, 1])) (fun t => t.rs == .halted && t.cell 0 == 1) = true ∧
    shows (step (State.withCell (bf 1 [0x68]) 65)) (fun t => faultIs t 6 2 9 && t.outStream == [65]) = true := by decide

/-- X-R1, X-R2, X-R3, X-R5: the reserved selectors. -/
theorem test_reserved_selectors :
    shows (step (bf 1 [0xE0, 0, 0, 0, 0])) (fun t => faultIs t 5 1 224) = true ∧
    shows (step (bf 1 [0xF3])) (fun t => faultIs t 5 1 243) = true ∧
    shows (step (bf 1 [0x0F, 0, 0, 0, 0])) (fun t => faultIs t 5 2 15 && t.cell 0 == 1) = true ∧
    shows (step (bf 1 [0x3F, 0, 0, 0, 0])) (fun t => faultIs t 5 2 63 && t.position == -1) = true := by decide

/-! ### Load (95_test_vectors.md S1 to S5, 2.8) -/

/-- A core to which the host presents a buffer. -/
def presented (buffer : List Byte) : State := State.reset.afterHost (.present (runOf buffer))

/-- L-7: the MF tape of `memsize` 1. -/
theorem test_load_mf :
    shows (step (presented [0xFF, 0x6D, 0x66, 0xFD, 0, 0, 0, 1]))
      (fun t => (List.range t.tapeLen).map t.cell == [0, 0, 1, 0, 1, 0, 1, 0, 1, 0] && t.rs == .halted) = true := by decide

/-- L-8: `memsize` is big-endian. -/
theorem test_load_bf :
    shows (step (presented [0xFF, 0x6D, 0x68, 0xFD, 0, 1, 0, 0])) (fun t => t.tapeLen == 65536 && t.pc == 8) = true := by decide

/-- S3b, S4a, S4c: load errors. -/
theorem test_load_errors :
    shows (step (presented [0xFF, 0x6D, 0x66, 0xFD, 0, 0, 0])) (fun t => t.rs == .loadFailed && t.cause.code == 1) = true ∧
    shows (step (presented [0xFF, 0x6D, 0x62, 0xFD, 0, 0, 0, 1])) (fun t => t.rs == .loadFailed && t.cause.code == 2) = true ∧
    shows (step (presented [0xFD, 0x66, 0x6D, 0xFF, 0, 0, 0, 0])) (fun t => t.exit == some .loadError && t.cause.code == 2) = true := by
  decide

/-! ### The host (70_reset_and_hazards.md R300, R302) -/

/-- A run with an ended input and a failing read is abandoned for one with another input: the new one reads its first byte. -/
theorem test_reload_takes_the_new_input :
    shows (step ({ State.withInput (bf 1 [0x70]) [1, 2] with readFailAt := some 0, outStream := [5] }.afterHost
        (.present ⟨[0xFF, 0x6D, 0x68, 0xFD, 0, 0, 0, 1, 0x76], [9], false, none, none⟩)))
      (fun t => t.inStream == [9] && !t.inEnded && t.readFailAt == none && t.inConsumed == 0 && t.outStream == []) = true := by
  decide

/-- IO-3 and IO-5, by the host's move: the second write and the second read fail. -/
theorem test_second_transaction_fails :
    shows (step ((State.withCell (bf 1 [0x66]) 65).afterHost (.failWrite 1))) (fun t => faultIs t 8 2 0 && t.outStream == [65]) = true ∧
    shows (step ((State.withInput (bf 1 [0x77]) [9, 8]).afterHost (.failRead 1))) (fun t => faultIs t 8 2 0 && t.inConsumed == 1) = true := by
  decide

/-! ### The invariants hold somewhere -/

theorem reset_inv : State.reset.Inv := ⟨by decide, by decide, by decide, by decide, by decide, by decide, by decide, by decide⟩

theorem reset_cursorWf : State.reset.cursorWf := by decide

/-- A running core, a halted one at the end, a faulted one and one that waits in slot 2. -/
def waiting : State := { bf 1 [0x67] with slot := .two, waiting := true, outStream := [0] }

theorem running_inv : (bf 1 [0x00]).Inv := ⟨by decide, by decide, by decide, by decide, by decide, by decide, by decide, by decide⟩
theorem halted_inv : (bf 1 []).Inv := ⟨by decide, by decide, by decide, by decide, by decide, by decide, by decide, by decide⟩
theorem waiting_inv : waiting.Inv := ⟨by decide, by decide, by decide, by decide, by decide, by decide, by decide, by decide⟩
theorem running_cursorWf : (bf 1 [0x00]).cursorWf ∧ waiting.cursorWf := by decide

/-! ### Witnesses: for each obligation with hypotheses, what meets them all -/

theorem witness_EveryHeaderByteHasOneShapeAndLength :
    128 ≤ (0x80#8).toNat ∧ (0x7F#8).toNat < 128 ∧ 8 ≤ (0x7F#8).toNat % 16 ∧ (0x7F#8).toNat % 8 ≠ 6 ∧
      (0x0E#8).toNat < 128 ∧ (0x0E#8).toNat % 8 = 6 ∧ (0x07#8).toNat % 16 < 8 := by decide

theorem witness_WellFormedPacketDecodesBack :
    (Packet.mk (.inS1 14) (some (.rsvpeS2 7))).wf = true ∧ (Packet.mk (.leftS1 13) (some (.jnzPX 3 0xFFFFFFFF))).wf = true ∧
      (Packet.mk (.rsvx6X 15) none).wf = true := by decide

theorem witness_IgnoredBitsChangeNothing :
    (5 : Code).toNat < 6 ∧ (Instr.addnX 0x100).op = .addn ∧ (Instr.addnX 0).op = (Instr.addnX 0x100).op ∧
      (Instr.addnX 0).slot = (Instr.addnX 0x100).slot ∧ (0x100 : Word).toNat % 256 = (0 : Word).toNat % 256 ∧
      (Instr.subnPX 1 0xFFFFFF07).op = .subn ∧ (Instr.subnPX 2 7).slot = (Instr.subnPX 1 0xFFFFFF07).slot ∧
      (0xFFFFFF07 : Word).toNat % 256 = (7 : Word).toNat % 256 := by decide

theorem witness_OperandIsFourBytesBigEndian :
    decodeAt .one [0xC0, 1, 2, 3, 4] = some (.jzX 0x01020304) ∧ (Instr.jzX 0x01020304).opnd = some 0x01020304 ∧
    decodeAt .two [0x0A, 0xFF, 0, 0, 1] = some (.rightnPX 0 0xFF000001) ∧
    ([0xFF, 0x6D, 0x66, 0xFD] : List Byte)[0]? = some 0xFF ∧ ([0xFF, 0x6D, 0x66, 0xFD] : List Byte)[3]? = some 0xFD := by decide

theorem witness_NoStepIsTakenOutsideRunning :
    (State.reset.loadRequest = none ∧ State.reset.rs ≠ .running) ∧ ((bf 1 []).loadRequest = none ∧ (bf 1 []).rs = .halted) ∧
    (loadFail .badMagic (runOf [])).rs = .loadFailed ∧ ((bf 0 [0]).raise .positionOutOfBounds .one 0).rs = .faulted := by decide

theorem witness_LoadOfMfHeaderBuildsItsTape :
    (presented [0xFF, 0x6D, 0x66, 0xFD, 0xFF, 0xFF, 0xFF, 0xFF]).loadRequest =
      some (runOf [0xFF, 0x6D, 0x66, 0xFD, 0xFF, 0xFF, 0xFF, 0xFF]) ∧
    (runOf [0xFF, 0x6D, 0x66, 0xFD, 0xFF, 0xFF, 0xFF, 0xFF]).prog =
      0xFF#8 :: 0x6D#8 :: 0x66#8 :: 0xFD#8 :: 0xFF#8 :: 0xFF#8 :: 0xFF#8 :: 0xFF#8 :: [] ∧
    ([] : List Byte).length + 8 ≤ 2 ^ 31 - 1 := by decide

theorem witness_LoadOfBfHeaderBuildsItsTape :
    (presented [0xFF, 0x6D, 0x68, 0xFD, 0, 0, 0, 0]).loadRequest = some (runOf [0xFF, 0x6D, 0x68, 0xFD, 0, 0, 0, 0]) ∧
    (runOf [0xFF, 0x6D, 0x68, 0xFD, 0, 0, 0, 0]).prog =
      0xFF#8 :: 0x6D#8 :: 0x68#8 :: 0xFD#8 :: 0#8 :: 0#8 :: 0#8 :: 0#8 :: [] ∧
    ([] : List Byte).length + 8 ≤ 2 ^ 31 - 1 := by decide

/-- A header alone and a header with one byte of code. -/
theorem witness_GoodLoadSetsTheRegisters :
    (presented [0xFF, 0x6D, 0x66, 0xFD, 0, 0, 0, 0]).loadRequest = some (runOf [0xFF, 0x6D, 0x66, 0xFD, 0, 0, 0, 0]) ∧
    ([0xFF, 0x6D, 0x66, 0xFD, 0, 0, 0, 0] : List Byte).length = 8 ∧
    ([0xFF, 0x6D, 0x66, 0xFD, 0, 0, 0, 0] : List Byte).take 4 = [0xFF, 0x6D, 0x66, 0xFD] ∧
    8 < ([0xFF, 0x6D, 0x68, 0xFD, 0, 0, 0, 0, 0] : List Byte).length ∧
    ([0xFF, 0x6D, 0x68, 0xFD, 0, 0, 0, 0, 0] : List Byte).length ≤ 2 ^ 31 - 1 ∧
    ([0xFF, 0x6D, 0x68, 0xFD, 0, 0, 0, 0, 0] : List Byte).take 4 = [0xFF, 0x6D, 0x68, 0xFD] := by decide

/-- Seven bytes of a good header, and eight bytes of a bad one. -/
theorem witness_BadHeadersAreLoadErrors :
    (presented [0xFF, 0x6D, 0x66, 0xFD, 0, 0, 0]).loadRequest = some (runOf [0xFF, 0x6D, 0x66, 0xFD, 0, 0, 0]) ∧
    ([0xFF, 0x6D, 0x66, 0xFD, 0, 0, 0] : List Byte).length < 8 ∧
    8 ≤ ([0xFF, 0x6D, 0x67, 0xFD, 0, 0, 0, 0] : List Byte).length ∧
    ([0xFF, 0x6D, 0x67, 0xFD, 0, 0, 0, 0] : List Byte).take 4 ≠ [0xFF, 0x6D, 0x66, 0xFD] ∧
    ([0xFF, 0x6D, 0x67, 0xFD, 0, 0, 0, 0] : List Byte).take 4 ≠ [0xFF, 0x6D, 0x68, 0xFD] ∧
    8 ≤ ([0xFF, 0x6D, 0x68, 0xFD, 0xFF, 0xFF, 0xFF, 0xFF] : List Byte).length ∧
    ([0xFF, 0x6D, 0x68, 0xFD, 0xFF, 0xFF, 0xFF, 0xFF] : List Byte).take 4 = [0xFF, 0x6D, 0x68, 0xFD] := by decide

/-- The shortest buffer that is too long. -/
theorem witness_TooLongBuffersAreRefused :
    (presented (List.replicate (2 ^ 31) 0)).loadRequest = some (runOf (List.replicate (2 ^ 31) 0)) ∧
    2 ^ 31 ≤ (List.replicate (2 ^ 31) (0 : Byte)).length := ⟨rfl, List.length_replicate.symm.le⟩

/-- A core at power-on and one in the middle of a run. -/
theorem witness_LoadForgetsTheEarlierRun :
    (presented [1]).loadRequest = some (runOf [1]) ∧
    ((State.withInput (bf 1 [0]) [7]).afterHost (.present (runOf [1]))).loadRequest = some (runOf [1]) := by decide

theorem witness_HostMovesTouchOnlyTheEnvironment : (bf 1 [0x00]).Inv ∧ (State.withInput (bf 1 [0]) [7]).inEnded = true :=
  ⟨running_inv, rfl⟩

theorem witness_IncrementAddsModulo256 :
    ((Instr.incS1 3).op = .inc ∧ OperandInside (.incS1 3) (bf 1 [0x03])) ∧
    ((Instr.addnPX 0 0x1FF).op = .addn ∧ (Instr.addnPX 0 0x1FF).opnd = some 0x1FF ∧ 255 = (0x1FF : Word).toNat % 256 ∧
      OperandInside (.addnPX 0 0x1FF) (bf 1 [0x08, 0, 0, 1, 0xFF])) ∧
    (bf 1 [0x03]).tapeWf ∧ (bf 1 [0x03]).inTape (bf 1 [0x03]).position ∧ (bf 1 [0x08, 0, 0, 1, 0xFF]).tapeWf ∧
    (bf 1 [0x08, 0, 0, 1, 0xFF]).inTape (bf 1 [0x08, 0, 0, 1, 0xFF]).position := by decide

/-- Cells above, at and below the number subtracted. -/
theorem witness_DecrementSubtractsModulo256 :
    ((Instr.decS2 7).op = .dec ∧ OperandInside (.decS2 7) (bf 1 [0x71])) ∧
    ((Instr.subnX 5).op = .subn ∧ (Instr.subnX 5).opnd = some 5 ∧ 5 = (5 : Word).toNat % 256 ∧
      OperandInside (.subnX 5) (State.withCell (bf 1 [0x90, 0, 0, 0, 5]) 5)) ∧
    (State.withCell (bf 1 [0x90, 0, 0, 0, 5]) 5).tapeWf ∧
    (State.withCell (bf 1 [0x90, 0, 0, 0, 5]) 5).inTape (bf 1 [0x90, 0, 0, 0, 5]).position ∧
    5 ≤ ((State.withCell (bf 1 [0x90, 0, 0, 0, 5]) 5).cell 0).toNat ∧ ¬5 ≤ ((bf 1 [0x90, 0, 0, 0, 5]).cell 0).toNat := by decide

/-- The two sides of 2^31. -/
theorem witness_AdvanceMovesTheCursorRight :
    ((Instr.rightS1 0).op = .right ∧ OperandInside (.rightS1 0) (bf 1 [0x20])) ∧
    ((Instr.rightnX 0x7FFFFFFF).op = .rightn ∧ (0x7FFFFFFF : Word).toNat < 2 ^ 31 ∧
      OperandInside (.rightnX 0x7FFFFFFF) (bf 1 [0xA0, 0x7F, 0xFF, 0xFF, 0xFF])) ∧
    ((Instr.rightnPX 2 0x80000000).op = .rightn ∧ ¬(0x80000000 : Word).toNat < 2 ^ 31 ∧
      OperandInside (.rightnPX 2 0x80000000) (bf 1 [0x2A, 0x80, 0, 0, 0])) := by decide

theorem witness_RetreatMovesTheCursorLeft :
    ((Instr.leftS2 7).op = .left ∧ OperandInside (.leftS2 7) (bf 0 [0x73])) ∧
    ((Instr.leftnX 0xFFFFFFFF).op = .leftn ∧ ¬(0xFFFFFFFF : Word).toNat < 2 ^ 31 ∧
      OperandInside (.leftnX 0xFFFFFFFF) (bf 1 [0xB0, 0xFF, 0xFF, 0xFF, 0xFF])) ∧
    ((Instr.leftnPX 2 0).op = .leftn ∧ (0 : Word).toNat < 2 ^ 31 ∧ OperandInside (.leftnPX 2 0) (bf 1 [0x2B, 0, 0, 0, 0])) := by
  decide

theorem witness_OutAppendsTheCell :
    (Instr.outS1 6).op = .out ∧ (Instr.outS2 6).op = .out ∧ (bf 1 [0x66]).inTape (bf 1 [0x66]).position ∧
      (bf 1 [0x66]).writeFailAt ≠ some (bf 1 [0x66]).outStream.length := by decide

theorem witness_InStoresTheNextByte :
    (Instr.inS1 7).op = .input ∧ (Instr.inS2 7).op = .input ∧ (State.withInput (bf 1 [0x77]) [255]).tapeWf ∧
      (State.withInput (bf 1 [0x77]) [255]).inTape 0 ∧ (State.withInput (bf 1 [0x77]) [255]).position = 0 ∧
      (State.withInput (bf 1 [0x77]) [255]).readFailAt ≠ some (State.withInput (bf 1 [0x77]) [255]).inConsumed ∧
      (State.withInput (bf 1 [0x77]) [255]).inStream[(State.withInput (bf 1 [0x77]) [255]).inConsumed]? = some 255 := by decide

theorem witness_InWithoutAnswerOnlyWaits :
    (Instr.inS2 6).op = .input ∧ waiting.inTape waiting.position ∧ waiting.readFailAt ≠ some waiting.inConsumed ∧
      waiting.inStream.length ≤ waiting.inConsumed ∧ waiting.inEnded = false := by decide

/-- One state for each of the three faults of the port. -/
theorem witness_PortEndAndFailuresAreFaults :
    (bf 1 [0x67]).inTape (bf 1 [0x67]).position ∧
    ({ bf 1 [0x67] with writeFailAt := some 0 } : State).writeFailAt = some (bf 1 [0x67]).outStream.length ∧
    ({ bf 1 [0x67] with readFailAt := some 0 } : State).readFailAt = some (bf 1 [0x67]).inConsumed ∧
    (State.withInput (bf 1 [0x67]) []).readFailAt ≠ some 0 ∧ (State.withInput (bf 1 [0x67]) []).inStream.length ≤ 0 ∧
    (State.withInput (bf 1 [0x67]) []).inEnded = true := by decide

/-- A program of one jump, 13 bytes: targets 7, 8, 13 and 14, taken and not taken. -/
theorem witness_JumpsTestTheCellAndCheckTheTarget :
    OperandInside (.jzX 13) (bf 1 [0xC0, 0, 0, 0, 13]) ∧ (bf 1 [0xC0, 0, 0, 0, 13]).inTape 0 ∧
    ((Instr.jzX 13).op = .jz ∧ ((bf 1 [0xC0, 0, 0, 0, 13]).cell 0).toNat = 0) ∧
    ((Instr.jnzPX 1 8).op = .jnz ∧ (State.withCell (bf 1 [0x1D, 0, 0, 0, 8]) 255).inTape 0 ∧
      OperandInside (.jnzPX 1 8) (bf 1 [0x1D, 0, 0, 0, 8]) ∧ ((State.withCell (bf 1 [0x1D, 0, 0, 0, 8]) 255).cell 0).toNat ≠ 0) ∧
    (bf 1 [0xC0, 0, 0, 0, 13]).len = 13 ∧
    8 ≤ signedValue 8 ∧ signedValue 13 ≤ 13 ∧ ¬8 ≤ signedValue 7 ∧ ¬signedValue 14 ≤ 13 ∧ ¬8 ≤ signedValue 0xFFFFFFF8 := by decide

/-- The cursor just below and just above the tape. -/
theorem witness_AccessOutsideTheTapeIsAFault :
    ({ bf 1 [0x00] with position := -1 } : State).position < 0 ∧
    (({ bf 1 [0x00] with position := 1 } : State).tapeLen : Int) ≤ ({ bf 1 [0x00] with position := 1 } : State).position ∧
    (Instr.incS1 0).op = .inc ∧ OperandInside (.incS1 0) (bf 1 [0x00]) ∧ (Instr.jnzX 8).op = .jnz ∧
    OperandInside (.jnzX 8) (bf 0 [0xD0, 0, 0, 0, 8]) ∧ ((bf 0 [0xD0, 0, 0, 0, 8]).tapeLen : Int) ≤ (bf 0 [0xD0]).position := by decide

/-- The operand's last byte is the first one missing. -/
theorem witness_TruncatedOperandIsAFault :
    (Instr.rightnX 0).opnd.isSome = true ∧ (bf 1 [0xA0, 0, 0, 0]).len ≤ (bf 1 [0xA0, 0, 0, 0]).pc.toNat + 4 ∧
    (Instr.jzPX 0 0).opnd.isSome = true ∧ ¬(bf 1 [0xA0, 0, 0, 0, 0]).len ≤ (bf 1 [0xA0, 0, 0, 0, 0]).pc.toNat + 4 := by decide

theorem witness_ReservedCodesAreFaults :
    (Instr.rsvp4S1 0).op = .rsvp4 ∧ (Instr.rsvp5S2 0).op = .rsvp5 ∧ (Instr.rsvpeS2 7).op = .rsvpe ∧
    (Instr.rsvx6X 15).op = .rsvx6 ∧ (Instr.rsvx7PX 7).op = .rsvx7 := by decide

theorem witness_FaultChangesOnlyTheStatusRegisters :
    (bf 0 [0x00]).rs = .running ∧ shows (exec (.incS1 0) (bf 0 [0x00])) (fun t => t.rs == .faulted) = true ∧
    shows (exec (.inS1 0) (State.withInput (bf 1 [0x70]) [])) (fun t => t.rs == .faulted && t.cause == .endOfInput) = true ∧
    shows (exec (.incS1 0) (bf 1 [0x00])) (fun t => t.rs == .running) = true := by decide

theorem witness_ProgramAndConfigurationAreNeverWritten :
    (bf 1 [0x00]).loadRequest = none ∧ shows (step (bf 1 [0x00])) (fun _ => true) = true := by decide

theorem witness_EachInstructionWritesOnlyItsOwn : shows (exec (.jzX 8) (bf 1 [0xC0, 0, 0, 0, 8])) (fun t => t.pc == 8) = true := by
  decide

/-- Slot 1 alone, slot 1 then slot 2, slot 2 alone. -/
theorem witness_StepRunsTheDecodedInstruction :
    ((bf 1 [0x80, 0, 0, 0, 1]).loadRequest = none ∧ (bf 1 [0x80, 0, 0, 0, 1]).rs = .running ∧
      8 ≤ (bf 1 [0x80, 0, 0, 0, 1]).pc.toNat ∧ (bf 1 [0x80, 0, 0, 0, 1]).slot = .one ∧
      decode ((bf 1 [0x80, 0, 0, 0, 1]).prog.drop (bf 1 [0x80, 0, 0, 0, 1]).pc.toNat) = .ok ⟨.addnX 1, none⟩ ∧
      shows (exec (.addnX 1) (bf 1 [0x80, 0, 0, 0, 1])) (fun u => u.slot == .one) = true) ∧
    (decode ((bf 1 [0x67]).prog.drop (bf 1 [0x67]).pc.toNat) = .ok ⟨.outS1 7, some (.inS2 6)⟩ ∧
      shows (exec (.outS1 7) (bf 1 [0x67])) (fun u => u.slot == .two) = true) ∧
    (waiting.rs = .running ∧ waiting.loadRequest = none ∧ 8 ≤ waiting.pc.toNat ∧ waiting.slot = .two) := by decide

theorem witness_RunningCoreAlwaysSteps :
    (bf 1 [0x00]).Inv ∧ (bf 1 [0x00]).rs = .running ∧ (bf 1 [0x00]).loadRequest = none ∧ waiting.Inv ∧ waiting.rs = .running :=
  ⟨running_inv, rfl, rfl, waiting_inv, rfl⟩

theorem witness_PackedPairWritesTheCellTwice :
    (bf 1 [0x66]).loadRequest = none ∧ (bf 1 [0x66]).rs = .running ∧ (bf 1 [0x66]).slot = .one ∧ 8 ≤ (bf 1 [0x66]).pc.toNat ∧
    (bf 1 [0x66]).fetch (bf 1 [0x66]).pc.toNat = some 0x66#8 ∧ (bf 1 [0x66]).inTape (bf 1 [0x66]).position ∧
    (bf 1 [0x66]).writeFailAt = none := by decide

/-- A tape with a cell to the right of the cursor and one without. -/
theorem witness_SlotTwoSeesWhatSlotOneDid :
    (bf 2 [0x20]).loadRequest = none ∧ (bf 2 [0x20]).rs = .running ∧ (bf 2 [0x20]).slot = .one ∧ 8 ≤ (bf 2 [0x20]).pc.toNat ∧
    (bf 2 [0x20]).tapeWf ∧ (bf 2 [0x20]).fetch (bf 2 [0x20]).pc.toNat = some 0x20#8 ∧ (bf 2 [0x20]).inTape 1 ∧
    (bf 1 [0x20]).rs = .running ∧ (bf 1 [0x20]).tapeWf ∧ ¬(bf 1 [0x20]).inTape ((bf 1 [0x20]).position + 1) := by decide

/-- `RIGHT ; JZ 13` at 8, with a cell to the right and the target at the end. -/
def rightJz : State := bf 2 [0x2C, 0, 0, 0, 13]

/-- The three clauses; in the first a tested cell that is 0 and one that is not. -/
theorem witness_PlainCodeComesBeforeItsExtendedOpcode :
    (rightJz.loadRequest = none ∧ rightJz.rs = .running ∧ rightJz.slot = .one ∧ 8 ≤ rightJz.pc.toNat ∧
      rightJz.fetch rightJz.pc.toNat = some 0x2C#8 ∧
      (rightJz.bytesFrom (rightJz.pc.toNat + 1)).take 4 = operandBytes 13 ∧ rightJz.inTape (rightJz.position + 1) ∧
      8 ≤ (13 : Word).toNat ∧ (13 : Word).toNat ≤ rightJz.len ∧ rightJz.len ≤ 2 ^ 31 - 1 ∧ rightJz.cell 1 = 0 ∧
      ({ rightJz with tape := [(1, 1)] } : State).cell 1 ≠ 0) ∧
    ((bf 1 [0x68]).loadRequest = none ∧ (bf 1 [0x68]).rs = .running ∧ (bf 1 [0x68]).slot = .one ∧
      8 ≤ (bf 1 [0x68]).pc.toNat ∧ (bf 1 [0x68]).fetch (bf 1 [0x68]).pc.toNat = some 0x68#8 ∧
      (bf 1 [0x68]).len = (bf 1 [0x68]).pc.toNat + 1 ∧ (bf 1 [0x68]).inTape (bf 1 [0x68]).position ∧
      (bf 1 [0x68]).writeFailAt = none) ∧
    ((bf 1 [0x08, 0, 0, 0, 255]).loadRequest = none ∧ (bf 1 [0x08, 0, 0, 0, 255]).rs = .running ∧
      (bf 1 [0x08, 0, 0, 0, 255]).slot = .one ∧ 8 ≤ (bf 1 [0x08, 0, 0, 0, 255]).pc.toNat ∧
      (bf 1 [0x08, 0, 0, 0, 255]).tapeWf ∧ (bf 1 [0x08, 0, 0, 0, 255]).inTape 0 ∧
      (bf 1 [0x08, 0, 0, 0, 255]).position = 0 ∧ (bf 1 [0x08, 0, 0, 0, 255]).fetch 8 = some 0x08#8 ∧
      (bf 1 [0x08, 0, 0, 0, 255]).fetch 12 = some 255#8) := by decide

theorem witness_WaitInSlotTwoKeepsSlotOne :
    (bf 1 [0x67]).loadRequest = none ∧ (bf 1 [0x67]).rs = .running ∧ (bf 1 [0x67]).slot = .one ∧ 8 ≤ (bf 1 [0x67]).pc.toNat ∧
    (bf 1 [0x67]).tapeWf ∧ (bf 1 [0x67]).inTape (bf 1 [0x67]).position ∧ (bf 1 [0x67]).fetch (bf 1 [0x67]).pc.toNat = some 0x67#8 ∧
    (bf 1 [0x67]).writeFailAt = none ∧ (bf 1 [0x67]).readFailAt = none ∧ (bf 1 [0x67]).inEnded = false ∧
    (bf 1 [0x67]).inConsumed = (bf 1 [0x67]).inStream.length := by decide

/-- An empty loop: `JZ 18` at 8, `JNZ 13` at 13, the end of the program at 18. -/
def loop : State := bf 1 [0xC0, 0, 0, 0, 18, 0xD0, 0, 0, 0, 13]

theorem witness_LoopConstructRepeatsWhileNonzero :
    loop.loadRequest = none ∧ loop.rs = .running ∧ loop.slot = .one ∧ loop.len ≤ 2 ^ 31 - 1 ∧ loop.inTape loop.position ∧
    8 + 5 ≤ 13 ∧ 13 + 5 ≤ loop.len ∧ loop.bytesFrom 8 = encode (.jzX (BitVec.ofNat 32 18)) ++ loop.bytesFrom 13 ∧
    loop.bytesFrom 13 = encode (.jnzX (BitVec.ofNat 32 13)) ++ loop.bytesFrom 18 ∧ loop.pc.toNat = 8 ∧
    ({ loop with pc := 13 } : State).pc.toNat = 13 ∧ loop.cell 0 = 0 ∧ (State.withCell loop 1).cell 0 ≠ 0 := by decide

/-- `JZ 8 ; JNZ 8`. -/
def pair : State := bf 1 [0xC0, 0, 0, 0, 8, 0xD0, 0, 0, 0, 8]

theorem witness_JumpPairIsUnconditional :
    pair.loadRequest = none ∧ pair.rs = .running ∧ pair.slot = .one ∧ 8 ≤ pair.pc.toNat ∧ pair.len ≤ 2 ^ 31 - 1 ∧
    pair.inTape pair.position ∧ 8 ≤ (8 : Word).toNat ∧ (8 : Word).toNat ≤ pair.len ∧
    pair.bytesFrom pair.pc.toNat = encode (.jzX 8) ++ encode (.jnzX 8) ++ pair.bytesFrom (pair.pc.toNat + 10) ∧
    pair.cell 0 = 0 ∧ (State.withCell pair 1).cell 0 ≠ 0 := by decide

theorem witness_StepHaltsExactlyAtTheEnd :
    (bf 1 [0x00]).Inv ∧ (bf 1 [0x00]).rs = .running ∧ (bf 1 [0x00]).loadRequest = none ∧
    shows (step (bf 1 [0x00])) (fun t => t.rs == .halted) = true := ⟨running_inv, rfl, rfl, by decide⟩

theorem witness_FaultOrWaitLeavesPc :
    (bf 0 [0x00]).rs = .running ∧ (bf 0 [0x00]).loadRequest = none ∧ shows (step (bf 0 [0x00])) (fun t => t.rs == .faulted) = true ∧
    (bf 1 [0x67]).waiting = false ∧ shows (step (bf 1 [0x67])) (fun t => t.waiting) = true := by decide

theorem witness_StepOnlyAppendsOutputAndConsumesInput :
    (bf 1 [0x66]).loadRequest = none ∧ shows (step (bf 1 [0x66])) (fun t => t.outStream.length == 2) = true := by decide

/-- The shortest program in which two operands fit, with a cell written. -/
def twoOperands : State := State.withCell (bf 1 [0x80, 0, 0, 0, 1, 0x80, 0, 0, 0, 1]) 255

theorem witness_CellArithmeticLaws :
    twoOperands.tapeWf ∧ twoOperands.inTape twoOperands.position ∧ twoOperands.pc.toNat + 9 < twoOperands.len ∧
    twoOperands.len ≤ 2 ^ 31 - 1 ∧ (0xFFFFFFFF : Word).toNat % 256 = (256 - (1 : Word).toNat % 256) % 256 ∧
    (0 : Word).toNat % 256 = (256 - (0 : Word).toNat % 256) % 256 := by decide

theorem witness_CursorArithmeticLaws : twoOperands.pc.toNat + 9 < twoOperands.len ∧ twoOperands.len ≤ 2 ^ 31 - 1 := by decide

theorem witness_StepKeepsTheInvariant :
    (bf 1 [0x00]).Inv ∧ shows (step (bf 1 [0x00])) (fun _ => true) = true ∧ waiting.Inv ∧ shows (step waiting) (fun _ => true) = true :=
  ⟨running_inv, by decide, waiting_inv, by decide⟩

theorem witness_StepKeepsTheCursorRange :
    (bf 1 [0x00]).Inv ∧ (bf 1 [0x00]).cursorWf ∧ shows (step (bf 1 [0x00])) (fun _ => true) = true :=
  ⟨running_inv, by decide, by decide⟩

theorem witness_CursorStaysBelowTwoToThe61 : (bf 1 [0x00]).Inv ∧ (bf 1 [0x00]).loaded ∧ (bf 1 [0x00]).cursorWf :=
  ⟨running_inv, .inl rfl, by decide⟩

/-- A run that ended well and one that ended in a fault. -/
theorem witness_ExitCodeSaysHowTheRunEnded :
    (bf 1 []).Inv ∧ (bf 1 []).rs = .halted ∧ ((bf 0 [0x00]).raise .positionOutOfBounds .one 0).Inv ∧
    ((bf 0 [0x00]).raise .positionOutOfBounds .one 0).rs = .faulted ∧ (loadFail .badMagic (runOf [])).rs = .loadFailed :=
  ⟨halted_inv, rfl, ⟨by decide, by decide, by decide, by decide, by decide, by decide, by decide, by decide⟩, rfl, rfl⟩

end Sys2Proof.Tests
end

/-! The load of a good header (spec/70_reset_and_hazards.md R282 to R287): what its step answers, and the tape it builds
(spec/10_state.md R26, R27). -/

namespace Sys2Proof.Machine

/-- `Fetch32` joins its four bytes as digits to the base 256, the first the most significant (R56). -/
theorem bigEndian_toNat (o0 o1 o2 o3 : Byte) :
    (bigEndian o0 o1 o2 o3).toNat = o0.toNat * 2 ^ 24 + o1.toNat * 2 ^ 16 + o2.toNat * 2 ^ 8 + o3.toNat := by
  simp only [bigEndian, append_toNat]
  omega

/-- The four bytes of the MF magic select the MF variant (R283). -/
theorem variantOf_mfMagicBytes : variantOf (bigEndian 0xFF 0x6D 0x66 0xFD) = some .mf := by decide

/-! ### `loadGood` -/

@[simp] theorem loadGood_variant (v : Variant) (run : Presented) : (loadGood v run).variant = v := rfl
@[simp] theorem loadGood_memsize (v : Variant) (run : Presented) : (loadGood v run).memsize = fetch32 run.prog 4 := rfl
@[simp] theorem loadGood_tapeLen (v : Variant) (run : Presented) :
    (loadGood v run).tapeLen = tapeLength v (fetch32 run.prog 4) := rfl

/-- A fresh tape holds every cell's load value. -/
@[simp] theorem loadGood_cell (v : Variant) (run : Presented) (i : Nat) : (loadGood v run).cell i = initCell v i := rfl

/-- A cell of a fresh MF tape, as a number (R26). -/
theorem initCell_mf_toNat (i : Nat) : (initCell .mf i).toNat = if 2 ≤ i ∧ i % 2 = 0 then 1 else 0 := by
  simp only [initCell]
  split <;> rfl

/-- A step that loads a buffer with a whole header, a length in the domain of the load and a good magic is the good load. -/
theorem step_loadGood {s : State} {run : Presented} {v : Variant} (hl : s.loadRequest = some run)
    (hmin : 8 ≤ run.prog.length) (hmax : run.prog.length ≤ 2 ^ 31 - 1)
    (hv : variantOf (fetch32 run.prog 0) = some v) : step s = .next (loadGood v run) := by
  have hdomain : ¬Config.maxLength < run.prog.length := Nat.not_lt.mpr hmax
  have hheader : ¬run.prog.length < Config.headerLength := Nat.not_lt.mpr hmin
  rw [step_load hl, load, if_neg hdomain, if_neg hheader, hv]

/-- Settles O9: the step is the good load of the MF variant, whose tape is all load values. -/
theorem loadOfMfHeaderBuildsItsTape : Obligations.LoadOfMfHeaderBuildsItsTape := by
  unfold Obligations.LoadOfMfHeaderBuildsItsTape
  intro s run m0 m1 m2 m3 code hl hprog hlen
  have hlength : run.prog.length = code.length + 8 := by rw [hprog]; rfl
  have hmagic : fetch32 run.prog 0 = bigEndian 0xFF 0x6D 0x66 0xFD := by rw [hprog]; rfl
  have hmemsize : fetch32 run.prog 4 = bigEndian m0 m1 m2 m3 := by rw [hprog]; rfl
  have hvariant : variantOf (fetch32 run.prog 0) = some .mf := by rw [hmagic, variantOf_mfMagicBytes]
  refine ⟨loadGood .mf run, step_loadGood hl (by omega) (by omega) hvariant, loadGood_variant .mf run, ?_,
    loadGood_tapeLen .mf run, fun i _ => ?_⟩
  · rw [loadGood_memsize, hmemsize, bigEndian_toNat]
  · rw [loadGood_cell, initCell_mf_toNat]

end Sys2Proof.Machine

/-! What no step writes: program space, the configuration registers and the environment's own fields (spec/20_memory.md R51,
R70, spec/10_state.md R25). -/

namespace Sys2Proof.Machine

theorem SameSetup.trans {s u t : State} (hsu : SameSetup s u) (hut : SameSetup u t) : SameSetup s t := by
  obtain ⟨hload, hprog, hvariant, hmemsize, htapeLen, hin, hended, hread, hwrite⟩ := hsu
  obtain ⟨hload', hprog', hvariant', hmemsize', htapeLen', hin', hended', hread', hwrite'⟩ := hut
  exact ⟨hload'.trans hload, hprog'.trans hprog, hvariant'.trans hvariant, hmemsize'.trans hmemsize,
    htapeLen'.trans htapeLen, hin'.trans hin, hended'.trans hended, hread'.trans hread, hwrite'.trans hwrite⟩

/-- The same program gives the same byte at every offset, or none (R51). -/
theorem SameSetup.fetch_eq {s t : State} (h : SameSetup s t) (a : Nat) : t.fetch a = s.fetch a := by
  obtain ⟨-, hprog, -⟩ := h
  simp only [State.fetch, hprog]

theorem Raised.sameSetup {c : Cause} {slot : Slot} {info : Int} {waits : Bool} {s t : State}
    (h : Raised c slot info waits s t) : SameSetup s t := by
  obtain ⟨-, -, -, -, -, -, -, -, -, -, -, -, -, hsetup⟩ := h
  exact hsetup

/-- What a sub-operation does to the tape, the cursor or the port leaves the setup. -/
theorem Effect.sameSetup {i : Instr} {s u : State} (h : Effect i s u) : SameSetup s u := by
  cases h with
  | test | set | move | emit | take => exact ⟨rfl, rfl, rfl, rfl, rfl, rfl, rfl, rfl, rfl⟩

/-- The end of a sub-operation writes only `pc`, the slot and the run's status. -/
theorem Finish.sameSetup {i : Instr} {s u t : State} (h : Finish i s u t) : SameSetup u t := by
  cases h with
  | plain =>
    obtain ⟨-, -, -, -, hsetup⟩ := u.plainDone_keeps i.slot
    exact hsetup
  | through | jump =>
    obtain ⟨-, -, -, -, hsetup⟩ := u.endInstr_keeps _
    exact hsetup

/-- No sub-operation writes the setup, whether it completes, faults or waits. -/
theorem Ran.sameSetup {i : Instr} {s t : State} (h : Ran i s t) : SameSetup s t := by
  cases h with
  | done heffect hfinish => exact heffect.sameSetup.trans hfinish.sameSetup
  | raised c info => exact (s.raise_raised c i.slot info).sameSetup
  | readFailed c info => exact (s.unblock_raise_raised c i.slot info).sameSetup
  | waits => exact ⟨rfl, rfl, rfl, rfl, rfl, rfl, rfl, rfl, rfl⟩

theorem exec_sameSetup {i : Instr} {s t : State} (h : exec i s = .next t) : SameSetup s t := (exec_ran h).sameSetup

/-- A step that loads nothing runs one or two sub-operations, and neither writes the setup. -/
theorem step_sameSetup {s t : State} (hl : s.loadRequest = none) (h : step s = .next t) : SameSetup s t := by
  obtain ⟨-, -, p, -, ⟨-, hfirst, -⟩ | ⟨-, u, i, hfirst, -, -, hsecond⟩ | ⟨-, i, -, hsecond⟩⟩ := step_ran hl h
  · exact exec_sameSetup hfirst
  · exact (exec_sameSetup hfirst).trans (exec_sameSetup hsecond)
  · exact exec_sameSetup hsecond

/-- Settles O29: the step leaves the setup, and so every byte that a fetch gives. -/
theorem programAndConfigurationAreNeverWritten : Obligations.ProgramAndConfigurationAreNeverWritten := by
  unfold Obligations.ProgramAndConfigurationAreNeverWritten
  intro s t hl h
  have hsetup : SameSetup s t := step_sameSetup hl h
  exact ⟨hsetup.fetch_eq, hsetup⟩

end Sys2Proof.Machine

/-! Every header byte decodes (spec/30_encoding.md R82 to R86, R92): the tests on its nibbles as numbers, the length each shape
spans, and the packet a header byte of each kind decodes to. -/

namespace Sys2Proof

/-! ### The nibbles of a header byte as numbers -/

theorem highNibble_toNat (b : Byte) : (highNibble b).toNat = b.toNat / 16 := by
  have := b.isLt
  simp only [highNibble, BitVec.extractLsb'_toNat, Nat.shiftRight_eq_div_pow]
  omega

theorem lowNibble_toNat (b : Byte) : (lowNibble b).toNat = b.toNat % 16 := by
  simp [lowNibble, BitVec.extractLsb'_toNat]

theorem nibbleHighBit_iff : ∀ c : Nibble, nibbleHighBit c = true ↔ 8 ≤ c.toNat := by decide

theorem nibbleCode_toNat (c : Nibble) : (nibbleCode c).toNat = c.toNat % 8 := by
  simp [nibbleCode, BitVec.extractLsb'_toNat]

/-- Bit 7 of the header byte is the high bit of its high nibble. -/
theorem nibbleHighBit_highNibble_iff (b : Byte) : nibbleHighBit (highNibble b) = true ↔ 128 ≤ b.toNat := by
  rw [nibbleHighBit_iff, highNibble_toNat]
  omega

theorem nibbleHighBit_lowNibble_iff (b : Byte) : nibbleHighBit (lowNibble b) = true ↔ 8 ≤ b.toNat % 16 := by
  rw [nibbleHighBit_iff, lowNibble_toNat]

theorem nibbleCode_lowNibble_ne_six_iff (b : Byte) : nibbleCode (lowNibble b) ≠ 6 ↔ b.toNat % 8 ≠ 6 := by
  rw [Ne, ← BitVec.toNat_inj, nibbleCode_toNat, lowNibble_toNat, Nat.mod_mod_of_dvd _ (by decide : 8 ∣ 16)]
  rfl

/-- A nibble with its high bit set is that bit and the nibble's code. -/
theorem one_append_nibbleCode : ∀ c : Nibble, nibbleHighBit c = true → 1#1 ++ nibbleCode c = c := by decide

theorem headerByte_toNat (h : Bool) (code : Code) (c2 : Nibble) :
    (headerByte h code c2).toNat = h.toNat * 128 + code.toNat * 16 + c2.toNat := by
  simp only [headerByte, append_toNat, BitVec.toNat_ofBool]
  omega

/-- A header byte with bit 7 clear is put together again from the code and the nibble read from it. -/
theorem headerByte_of_highBit_clear {b : Byte} (hb : b.toNat < 128) :
    headerByte false (nibbleCode (highNibble b)) (lowNibble b) = b := by
  apply BitVec.eq_of_toNat_eq
  rw [headerByte_toNat, nibbleCode_toNat, highNibble_toNat, lowNibble_toNat, Bool.toNat_false]
  omega

/-! ### The length of an instruction -/

/-- The length by the tests on the header byte (R92). -/
theorem decodeHeader_length (b : Byte) :
    (decodeHeader b).length = if 128 ≤ b.toNat ∨ 8 ≤ b.toNat % 16 ∧ b.toNat % 8 ≠ 6 then 5 else 1 := by
  simp only [← nibbleHighBit_highNibble_iff, ← nibbleHighBit_lowNibble_iff, ← nibbleCode_lowNibble_ne_six_iff,
    decodeHeader]
  by_cases hx : nibbleHighBit (highNibble b) = true
  · rw [if_pos hx, if_pos (.inl hx)]
    rfl
  · rw [if_neg hx]
    by_cases hpx : nibbleHighBit (lowNibble b) = true ∧ nibbleCode (lowNibble b) ≠ 6
    · rw [if_pos (by simpa using hpx), if_pos (.inr hpx)]
      rfl
    · rw [if_neg (by simpa using hpx), if_neg (not_or.mpr ⟨hx, hpx⟩)]
      rfl

/-! ### The sub-operation that owns the last byte -/

/-- A nibble of shape PP has a plain code of slot 2, which is encoded in the header byte alone (R86). -/
theorem plainSecond_some (c : Code) {n : Nibble} (hn : nibbleHighBit n = false ∨ nibbleCode n = 6) :
    ∃ i, plainSecond c n = some i ∧ (encode i).length = 1 := by
  have hcodes : ∀ n : Nibble, nibbleHighBit n = false ∨ nibbleCode n = 6 →
      n = 0 ∨ n = 1 ∨ n = 2 ∨ n = 3 ∨ n = 4 ∨ n = 5 ∨ n = 6 ∨ n = 7 ∨ n = 14 := by decide
  rcases hcodes n hn with rfl | rfl | rfl | rfl | rfl | rfl | rfl | rfl | rfl <;> exact ⟨_, rfl, rfl⟩

/-- A selector of shape PX has an extended opcode of slot 2, which is encoded with its operand (R85). -/
theorem extendedSecond_some (c : Code) {spb : Code} (w : Word) (h : spb ≠ 6) :
    ∃ i, extendedSecond c spb w = some i ∧ (encode i).length = 5 := by
  have hcodes : ∀ spb : Code, spb ≠ 6 → spb = 0 ∨ spb = 1 ∨ spb = 2 ∨ spb = 3 ∨ spb = 4 ∨ spb = 5 ∨ spb = 7 := by decide
  rcases hcodes spb h with rfl | rfl | rfl | rfl | rfl | rfl | rfl <;> exact ⟨_, rfl, rfl⟩

/-- A standalone extended opcode has the high nibble it was read from and is encoded with its operand (R84). -/
theorem extendedAlone_encode (spb : Code) (pad : Nibble) (w : Word) :
    (extendedAlone spb pad w).header.toNat / 16 = 8 + spb.toNat ∧ (encode (extendedAlone spb pad w)).length = 5 := by
  have hheader : ∃ pad', (extendedAlone spb pad w).header = headerByte true spb pad' := by
    rcases code_cases spb with rfl | rfl | rfl | rfl | rfl | rfl | rfl | rfl <;> exact ⟨_, rfl⟩
  obtain ⟨pad', hpad⟩ := hheader
  constructor
  · have := pad'.isLt
    rw [hpad, headerByte_toNat, Bool.toNat_true]
    omega
  · rcases code_cases spb with rfl | rfl | rfl | rfl | rfl | rfl | rfl | rfl <;> rfl

/-! ### The packet of a header byte -/

theorem wf_extendedAlone (spb : Code) (pad : Nibble) (w : Word) :
    (Packet.mk (extendedAlone spb pad w) none).wf = true := by
  obtain ⟨hslot, hfirst, -⟩ := extendedAlone_spec spb pad w
  simp [Packet.wf, Packet.firstInSlotOne, Packet.secondAsShapeSays, Packet.oneHeaderByte, hslot, hfirst]

/-- A plain code and a sub-operation of slot 2 with the same two nibbles are one header byte. -/
theorem wf_plainFirst {c : Code} {n : Nibble} {i : Instr} (hi : i.asSecond = some (c, n)) :
    (Packet.mk (plainFirst c n) (some i)).wf = true := by
  simp [Packet.wf, Packet.firstInSlotOne, Packet.secondAsShapeSays, Packet.oneHeaderByte, plainFirst_slot,
    plainFirst_asFirst, hi]

/-- With bit 7 set the header byte decodes to a standalone extended opcode (shape X). -/
theorem decode_of_highBit_set {b : Byte} (hb : 128 ≤ b.toNat) (rest : List Byte) :
    decode (b :: rest) =
      .ok ⟨extendedAlone (nibbleCode (highNibble b)) (lowNibble b) (operandOf rest), none⟩ := by
  have hhigh := (nibbleHighBit_highNibble_iff b).mpr hb
  rcases decode_shapes b rest with ⟨-, hd⟩ | ⟨hlow, -⟩ | ⟨hlow, -⟩
  · exact hd
  · exact absurd (hhigh.symm.trans hlow) (by decide)
  · exact absurd (hhigh.symm.trans hlow) (by decide)

/-- With bit 7 clear it decodes to a plain code and a sub-operation of slot 2 with the same two nibbles, which is encoded in as
many bytes as the instruction is long (shapes PX and PP). -/
theorem decode_of_highBit_clear {b : Byte} (hb : b.toNat < 128) (rest : List Byte) :
    ∃ i, decode (b :: rest) = .ok ⟨plainFirst (nibbleCode (highNibble b)) (lowNibble b), some i⟩ ∧
      i.asSecond = some (nibbleCode (highNibble b), lowNibble b) ∧ i.header = b ∧
      (encode i).length = if 8 ≤ b.toNat % 16 ∧ b.toNat % 8 ≠ 6 then 5 else 1 := by
  simp only [← nibbleHighBit_lowNibble_iff, ← nibbleCode_lowNibble_ne_six_iff]
  rcases decode_shapes b rest with ⟨hhigh, -⟩ | ⟨-, hbit, hcode, hd⟩ | ⟨-, hpp, hd⟩
  · have := (nibbleHighBit_highNibble_iff b).mp hhigh
    omega
  · obtain ⟨i, hi, hlen⟩ := extendedSecond_some (nibbleCode (highNibble b)) (operandOf rest) hcode
    obtain ⟨-, hsecond, hheader, -⟩ := extendedSecond_spec hi
    rw [one_append_nibbleCode _ hbit] at hsecond hheader
    exact ⟨i, by rw [hd, hi, packetOf], hsecond, hheader.trans (headerByte_of_highBit_clear hb),
      by rw [hlen, if_pos ⟨hbit, hcode⟩]⟩
  · obtain ⟨i, hi, hlen⟩ := plainSecond_some (nibbleCode (highNibble b)) hpp
    obtain ⟨-, hsecond, hheader, -⟩ := plainSecond_spec _ _ _ hi
    have hnot : ¬(nibbleHighBit (lowNibble b) = true ∧ nibbleCode (lowNibble b) ≠ 6) := by
      rintro ⟨hbit, hcode⟩
      rcases hpp with hclear | hsix
      · exact absurd (hbit.symm.trans hclear) (by decide)
      · exact hcode hsix
    exact ⟨i, by rw [hd, hi, packetOf], hsecond, hheader.trans (headerByte_of_highBit_clear hb),
      by rw [hlen, if_neg hnot]⟩

/-- Settles O4, by bit 7 of the header byte: shape X if it is set, the shapes PX and PP if it is clear. -/
theorem everyHeaderByteHasOneShapeAndLength : Obligations.EveryHeaderByteHasOneShapeAndLength := by
  unfold Obligations.EveryHeaderByteHasOneShapeAndLength
  intro b rest
  by_cases hb : 128 ≤ b.toNat
  · obtain ⟨hnibble, hlen⟩ := extendedAlone_encode (nibbleCode (highNibble b)) (lowNibble b) (operandOf rest)
    refine ⟨_, decode_of_highBit_set hb rest, wf_extendedAlone _ _ _, decodeHeader_length b,
      fun _ => ⟨rfl, ?_, hlen⟩, fun hlt => absurd hlt (Nat.not_lt.mpr hb)⟩
    have := b.isLt
    rw [hnibble, nibbleCode_toNat, highNibble_toNat]
    omega
  · have hlt : b.toNat < 128 := Nat.lt_of_not_le hb
    obtain ⟨i, hd, hsecond, hheader, hlen⟩ := decode_of_highBit_clear hlt rest
    exact ⟨_, hd, wf_plainFirst hsecond, decodeHeader_length b, fun h => absurd h hb,
      fun _ => ⟨(plainFirst_header _ _).trans (headerByte_of_highBit_clear hlt), i, rfl, hheader, hlen⟩⟩

end Sys2Proof

/-! A write that the port accepts, and the packed pair of two writes (spec/44_io_port.md R222,
spec/40_fetch_decode_dispatch.md R135). -/

namespace Sys2Proof.Machine

/-- Only the write of the failing number is refused (R222, R223). -/
theorem State.writeAnswer_ok {s : State} (hw : s.writeFailAt ≠ some s.outStream.length) : s.writeAnswer = .ok := if_neg hw

/-- `OUT` with the cursor on a cell and a port that accepts the write appends the cell's value (R155, R222). -/
theorem opOut_ok {slot : Slot} {s : State} (hp : s.inTape s.position) (hw : s.writeFailAt ≠ some s.outStream.length) :
    opOut slot s = .next ((s.emit (s.cell s.position.toNat)).plainDone slot) := by
  rw [opOut, onCell_in hp, State.writeAnswer_ok hw]

/-- The header byte `0x66` is `OUT` in both slots (R86, R95). -/
theorem instructionAtPc_outOut {s : State} (h : s.fetch s.pc.toNat = some 0x66#8) :
    s.instructionAtPc = .ok ⟨.outS1 6, some (.outS2 6)⟩ := by
  rw [State.instructionAtPc, State.bytesFrom_of_fetch h]
  rfl

/-- Settles O33: slot 1 writes the cell and leaves it and the cursor, so slot 2 writes the same value and ends the
instruction. -/
theorem packedPairWritesTheCellTwice : Obligations.PackedPairWritesTheCellTwice := by
  unfold Obligations.PackedPairWritesTheCellTwice
  intro s hl hr hs hpc hfetch hp hw
  let v := s.cell s.position.toNat
  let u := (s.emit v).toSlotTwo
  have haccepts (n : Nat) : s.writeFailAt ≠ some n := by simp [hw]
  have hfirst : exec (.outS1 6) s = .next u := opOut_ok hp (haccepts _)
  have hsecond : exec (.outS2 6) u = .next ((u.emit v).endInstr (s.pc + 1)) := opOut_ok (s := u) hp (haccepts _)
  have hstep : step s = .next ((u.emit v).endInstr (s.pc + 1)) := by
    rw [step_packet hl hr hpc (instructionAtPc_outOut hfetch), runPacket_two hs hfirst rfl rfl, hsecond]
  have hout : s.outStream ++ [v] ++ [v] = s.outStream ++ [v, v] := by simp
  obtain ⟨hposition, htape, hfault, ⟨-, hin, -⟩, hsetup⟩ := (u.emit v).endInstr_keeps (s.pc + 1)
  exact ⟨_, hstep, hout, htape, hposition, hin, State.endInstr_ended rfl rfl rfl _, hfault, hsetup⟩

end Sys2Proof.Machine

/-! The arithmetic of the current cell (spec/43_tape_unit.md R204, R205): what `INC`, `ADDN`, `DEC` and `SUBN` answer with the
cursor on a cell, and what a write of the current cell leaves as it was. -/

namespace Sys2Proof.Machine

/-! ### How a sub-operation that goes on falls through -/

/-- A plain code ends as its slot says, an extended opcode after its five bytes (R22, R124): what `FellThrough` describes. -/
def State.fallThrough (s : State) (i : Instr) : State :=
  match i.opnd with
  | none => s.plainDone i.slot
  | some _ => s.endInstr (s.pc + 5)

/-- What falling through leaves. -/
theorem State.fallThrough_keeps (s : State) (i : Instr) :
    (s.fallThrough i).position = s.position ∧ SameTape s (s.fallThrough i) ∧ SameFaultRegisters s (s.fallThrough i) ∧
      SamePort s (s.fallThrough i) ∧ SameSetup s (s.fallThrough i) := by
  unfold State.fallThrough
  split
  · exact s.plainDone_keeps i.slot
  · exact s.endInstr_keeps (s.pc + 5)

/-- Falling through, from any state with the program, `pc` and run state of `s`. -/
theorem State.fallThrough_fellThrough {s u : State} (hl : u.len = s.len) (hp : u.pc = s.pc) (hr : u.rs = s.rs)
    (hx : u.exit = s.exit) (i : Instr) : FellThrough i s (u.fallThrough i) := by
  cases ho : i.opnd with
  | none =>
    simp only [FellThrough, State.fallThrough, ho]
    exact State.plainDone_ended hl hp hr hx i.slot
  | some _ =>
    simp only [FellThrough, State.fallThrough, ho, hp]
    exact State.endInstr_ended hl hr hx (s.pc + 5)

/-- A write of the current cell that falls through is read back. -/
theorem State.setCell_fallThrough_current {s : State} (h : s.tapeWf) (v : Byte) (i : Instr) :
    ((s.setCell v).fallThrough i).cell s.position.toNat = v := by
  obtain ⟨-, htape, -⟩ := (s.setCell v).fallThrough_keeps i
  rw [htape, State.setCell_current h]

/-- A write of the current cell that falls through leaves everything else (R202). -/
theorem State.setCell_fallThrough_frame {s : State} (h : s.tapeWf) (hp : s.inTape s.position) (v : Byte) (i : Instr) :
    SameTapeBut s.position s ((s.setCell v).fallThrough i) ∧ ((s.setCell v).fallThrough i).position = s.position ∧
      FellThrough i s ((s.setCell v).fallThrough i) ∧ SameFaultRegisters s ((s.setCell v).fallThrough i) ∧
      SamePort s ((s.setCell v).fallThrough i) ∧ SameSetup s ((s.setCell v).fallThrough i) := by
  obtain ⟨hposition, htape, hfault, hport, hsetup⟩ := (s.setCell v).fallThrough_keeps i
  exact ⟨fun a ha => (htape a).trans (State.setCell_sameTapeBut h hp v a ha), hposition,
    State.fallThrough_fellThrough rfl rfl rfl rfl i, hfault, hport, hsetup⟩

/-! ### The four operations -/

/-- The number added or subtracted: 1 for a plain code, the operand's low byte for an extended opcode (R89, R151, R152). -/
def cellAmount (i : Instr) : Byte :=
  match i.opnd with
  | none => 1
  | some o => lowByte o

theorem opnd_of_inc_or_dec {i : Instr} (hop : i.op = .inc ∨ i.op = .dec) : i.opnd = none := by
  cases i with
  | incS1 | incS2 | decS1 | decS2 => rfl
  | _ => simp [Instr.op] at hop

/-- The amount is the number `n` of the statements on a plain code and its extended opcode. -/
theorem cellAmount_toNat {i : Instr} {n : Nat} {plain extended : Op} (hplain : plain = .inc ∨ plain = .dec)
    (hn : i.op = plain ∧ n = 1 ∨ i.op = extended ∧ ∃ o, i.opnd = some o ∧ n = o.toNat % 256) :
    (cellAmount i).toNat = n := by
  rcases hn with ⟨hop, rfl⟩ | ⟨-, o, ho, rfl⟩
  · rw [cellAmount, opnd_of_inc_or_dec (hop ▸ hplain)]
    rfl
  · rw [cellAmount, ho]
    exact lowByte_toNat o

/-- `INC` and `ADDN` with the operand inside the program and the cursor on a cell (R151, R173). -/
theorem exec_increment {i : Instr} {s : State} (hop : i.op = .inc ∨ i.op = .addn) (hl : OperandInside i s)
    (hp : s.inTape s.position) :
    exec i s = .next ((s.setCell (s.cell s.position.toNat + cellAmount i)).fallThrough i) := by
  cases i with
  | incS1 | incS2 => exact onCell_in hp
  | addnX | addnPX => exact (onOperand_in (hl rfl)).trans (onCell_in hp)
  | _ => simp [Instr.op] at hop

/-- `DEC` and `SUBN` with the operand inside the program and the cursor on a cell (R152, R174). -/
theorem exec_decrement {i : Instr} {s : State} (hop : i.op = .dec ∨ i.op = .subn) (hl : OperandInside i s)
    (hp : s.inTape s.position) :
    exec i s = .next ((s.setCell (s.cell s.position.toNat - cellAmount i)).fallThrough i) := by
  cases i with
  | decS1 | decS2 => exact onCell_in hp
  | subnX | subnPX => exact (onOperand_in (hl rfl)).trans (onCell_in hp)
  | _ => simp [Instr.op] at hop

/-- Subtraction of bytes by its two cases (R205). -/
theorem byte_sub_toNat_cases (v d : Byte) :
    if d.toNat ≤ v.toNat then (v - d).toNat = v.toNat - d.toNat else (v - d).toNat = v.toNat + 256 - d.toNat := by
  have := v.isLt
  have := d.isLt
  rw [BitVec.toNat_sub]
  split <;> omega

/-- Settles O15: the cell holds the sum of two bytes, which drops the carry. -/
theorem incrementAddsModulo256 : Obligations.IncrementAddsModulo256 := by
  unfold Obligations.IncrementAddsModulo256
  intro i s n hn hl htape hp
  have hop : i.op = .inc ∨ i.op = .addn := hn.imp And.left And.left
  have hamount : (cellAmount i).toNat = n := cellAmount_toNat (.inl rfl) hn
  refine ⟨_, exec_increment hop hl hp, ?_, State.setCell_fallThrough_frame htape hp _ i⟩
  rw [State.setCell_fallThrough_current htape, BitVec.toNat_add, hamount]

/-- Settles O16: the cell holds the difference of two bytes, 256 more where it would be negative. -/
theorem decrementSubtractsModulo256 : Obligations.DecrementSubtractsModulo256 := by
  unfold Obligations.DecrementSubtractsModulo256
  intro i s n hn hl htape hp
  have hop : i.op = .dec ∨ i.op = .subn := hn.imp And.left And.left
  have hamount : (cellAmount i).toNat = n := cellAmount_toNat (.inr rfl) hn
  refine ⟨_, exec_decrement hop hl hp, ?_, State.setCell_fallThrough_frame htape hp _ i⟩
  rw [State.setCell_fallThrough_current htape, ← hamount]
  exact byte_sub_toNat_cases _ _

end Sys2Proof.Machine

/-! The output side of the port (spec/44_io_port.md R222): `OUT` in either slot, and its frame. -/

namespace Sys2Proof.Machine

/-- The meaning of `OUT` is the shared operation in the instruction's own slot (R155). -/
theorem exec_out {i : Instr} (hop : i.op = .out) (s : State) : exec i s = opOut i.slot s := by
  cases i with
  | outS1 | outS2 => rfl
  | _ => simp [Instr.op] at hop

/-- Settles O19: the byte is appended before the sub-operation ends, and neither the append nor the end touches anything
else. -/
theorem outAppendsTheCell : Obligations.OutAppendsTheCell := by
  unfold Obligations.OutAppendsTheCell
  intro i s hop hp hw
  let u := s.emit (s.cell s.position.toNat)
  have hexec : exec i s = .next (u.plainDone i.slot) := (exec_out hop s).trans (opOut_ok hp hw)
  obtain ⟨hposition, htape, hfault, ⟨hout, hin, hwaiting⟩, hsetup⟩ := u.plainDone_keeps i.slot
  exact ⟨_, hexec, hout, htape, hposition, hin, hwaiting, State.plainDone_ended rfl rfl rfl rfl i.slot, hfault, hsetup⟩

end Sys2Proof.Machine

/-! The load errors (spec/60_exceptions.md R241, R242): the magic as the buffer's first four bytes, and the two failing ends of
the load. -/

namespace Sys2Proof.Machine

/-! ### The magic as four bytes -/

/-- The four bytes are read back from the word they join to. -/
theorem bigEndian_inj {a0 a1 a2 a3 b0 b1 b2 b3 : Byte} :
    bigEndian a0 a1 a2 a3 = bigEndian b0 b1 b2 b3 ↔ a0 = b0 ∧ a1 = b1 ∧ a2 = b2 ∧ a3 = b3 := by
  simp only [← BitVec.toNat_inj, bigEndian_toNat]
  omega

/-- The word at offset 0 says which four bytes a buffer begins with (R56). -/
theorem fetch32_zero_eq_iff {buffer : List Byte} (h : 4 ≤ buffer.length) (m0 m1 m2 m3 : Byte) :
    fetch32 buffer 0 = bigEndian m0 m1 m2 m3 ↔ buffer.take 4 = [m0, m1, m2, m3] := by
  match buffer, h with
  | b0 :: b1 :: b2 :: b3 :: rest, _ =>
    have hlist : b0 = m0 ∧ b1 = m1 ∧ b2 = m2 ∧ b3 = m3 ↔ [b0, b1, b2, b3] = [m0, m1, m2, m3] := by simp
    exact bigEndian_inj.trans hlist

/-- Only the two magics select a variant (R242, R283). -/
theorem variantOf_eq_none_iff {magic : Word} :
    variantOf magic = none ↔ magic ≠ Config.magicMF ∧ magic ≠ Config.magicBF := by
  unfold variantOf
  split_ifs <;> simp [*]

theorem magicMF_eq_bigEndian : Config.magicMF = bigEndian 0xFF 0x6D 0x66 0xFD := by decide

theorem magicBF_eq_bigEndian : Config.magicBF = bigEndian 0xFF 0x6D 0x68 0xFD := by decide

/-- A buffer has a bad magic exactly if its first four bytes are neither magic (R242). -/
theorem variantOf_fetch32_eq_none_iff {buffer : List Byte} (h : 4 ≤ buffer.length) :
    variantOf (fetch32 buffer 0) = none ↔
      buffer.take 4 ≠ [0xFF, 0x6D, 0x66, 0xFD] ∧ buffer.take 4 ≠ [0xFF, 0x6D, 0x68, 0xFD] := by
  rw [variantOf_eq_none_iff, magicMF_eq_bigEndian, magicBF_eq_bigEndian, Ne, Ne, fetch32_zero_eq_iff h,
    fetch32_zero_eq_iff h]

/-! ### The failing ends of the load -/

/-- A step that loads a buffer without a whole header (R241). -/
theorem step_loadFail_short {s : State} {run : Presented} (hl : s.loadRequest = some run) (h : run.prog.length < 8) :
    step s = .next (loadFail .fileTooSmall run) := by
  have hdomain : ¬Config.maxLength < run.prog.length := by simp only [Config.maxLength]; omega
  have hheader : run.prog.length < Config.headerLength := h
  rw [step_load hl, load, if_neg hdomain, if_pos hheader]

/-- A step that loads a buffer with a whole header, a length in the domain of the load and a bad magic (R242). -/
theorem step_loadFail_magic {s : State} {run : Presented} (hl : s.loadRequest = some run) (hmin : 8 ≤ run.prog.length)
    (hmax : run.prog.length ≤ 2 ^ 31 - 1) (hv : variantOf (fetch32 run.prog 0) = none) :
    step s = .next (loadFail .badMagic run) := by
  have hdomain : ¬Config.maxLength < run.prog.length := Nat.not_lt.mpr hmax
  have hheader : ¬run.prog.length < Config.headerLength := Nat.not_lt.mpr hmin
  rw [step_load hl, load, if_neg hdomain, if_neg hheader, hv]

/-- A good load ends in `Halted` or `Running` (R286). -/
theorem loadGood_rs_ne_loadFailed (v : Variant) (run : Presented) : (loadGood v run).rs ≠ .loadFailed := by
  simp only [loadGood]
  split <;> decide

/-- Settles O12, by the length and then by whether the first four bytes select a variant. -/
theorem badHeadersAreLoadErrors : Obligations.BadHeadersAreLoadErrors := by
  unfold Obligations.BadHeadersAreLoadErrors
  intro s run hl hmax
  refine ⟨fun hshort => ⟨_, step_loadFail_short hl hshort, rfl, rfl⟩, fun hmin hmf hbf => ?_, fun hmin hgood => ?_⟩
  · have hnone : variantOf (fetch32 run.prog 0) = none := (variantOf_fetch32_eq_none_iff (by omega)).mpr ⟨hmf, hbf⟩
    exact ⟨_, step_loadFail_magic hl hmin hmax hnone, rfl, rfl⟩
  · have hsome : variantOf (fetch32 run.prog 0) ≠ none := by
      rw [Ne, variantOf_fetch32_eq_none_iff (by omega), not_and_or, not_not, not_not]
      exact hgood
    obtain ⟨v, hv⟩ := Option.ne_none_iff_exists'.mp hsome
    exact ⟨_, step_loadGood hl hmin hmax hv, loadGood_rs_ne_loadFailed v run, rfl⟩

end Sys2Proof.Machine

/-! Decoding what the encoder writes (spec/30_encoding.md sections 2 to 4): the packet of a header byte put together from its
fields, for each shape, and the sub-operation that each constructor's bytes give back. -/

namespace Sys2Proof

/-! ### A header byte put together from its fields -/

theorem highNibble_headerByte_toNat (h : Bool) (c : Code) (n : Nibble) :
    (highNibble (headerByte h c n)).toNat = h.toNat * 8 + c.toNat := by
  have := n.isLt
  rw [highNibble_toNat, headerByte_toNat]
  omega

@[simp] theorem lowNibble_headerByte (h : Bool) (c : Code) (n : Nibble) : lowNibble (headerByte h c n) = n := by
  apply BitVec.eq_of_toNat_eq
  have := n.isLt
  rw [lowNibble_toNat, headerByte_toNat]
  omega

@[simp] theorem nibbleHighBit_highNibble_headerByte (h : Bool) (c : Code) (n : Nibble) :
    nibbleHighBit (highNibble (headerByte h c n)) = h := by
  have := c.isLt
  rw [Bool.eq_iff_iff, nibbleHighBit_iff, highNibble_headerByte_toNat]
  cases h
  · simp only [Bool.toNat_false, Bool.false_eq_true, iff_false]
    omega
  · simp

@[simp] theorem nibbleCode_highNibble_headerByte (h : Bool) (c : Code) (n : Nibble) :
    nibbleCode (highNibble (headerByte h c n)) = c := by
  apply BitVec.eq_of_toNat_eq
  have := c.isLt
  rw [nibbleCode_toNat, highNibble_headerByte_toNat]
  omega

theorem decodeHeader_alone (spb : Code) (pad : Nibble) : decodeHeader (headerByte true spb pad) = .x spb pad := by
  simp [decodeHeader]

theorem decodeHeader_extended {n : Nibble} (hbit : nibbleHighBit n = true) (hcode : nibbleCode n ≠ 6) (c : Code) :
    decodeHeader (headerByte false c n) = .px c (nibbleCode n) := by
  simpa [decodeHeader, hbit] using hcode

theorem decodeHeader_plain {n : Nibble} (h : nibbleHighBit n = false ∨ nibbleCode n = 6) (c : Code) :
    decodeHeader (headerByte false c n) = .pp c n := by
  rcases h with h | h <;> simp [decodeHeader, h]

/-! ### The packet of each shape -/

/-- Shape X: a standalone extended opcode (R84). -/
theorem decode_alone (spb : Code) (pad : Nibble) (rest : List Byte) :
    decode (headerByte true spb pad :: rest) = .ok ⟨extendedAlone spb pad (operandOf rest), none⟩ := by
  rw [decode, decodeHeader_alone]

/-- Shape PX: a plain code and an extended opcode (R85). -/
theorem decode_extended {c : Code} {n : Nibble} {rest : List Byte} {i : Instr} (hbit : nibbleHighBit n = true)
    (hcode : nibbleCode n ≠ 6) (hi : extendedSecond c (nibbleCode n) (operandOf rest) = some i) :
    decode (headerByte false c n :: rest) = .ok ⟨plainFirst c n, some i⟩ := by
  rw [decode, decodeHeader_extended hbit hcode]
  simp [hi, packetOf]

/-- Shape PP: two plain codes (R86). -/
theorem decode_plain {c : Code} {n : Nibble} {i : Instr} (hn : nibbleHighBit n = false ∨ nibbleCode n = 6)
    (hi : plainSecond c n = some i) (rest : List Byte) :
    decode (headerByte false c n :: rest) = .ok ⟨plainFirst c n, some i⟩ := by
  rw [decode, decodeHeader_plain hn]
  simp [hi, packetOf]

/-! ### The bytes of a sub-operation -/

/-- A plain code of slot 1 is the one its two nibbles select. -/
theorem eq_plainFirst {i : Instr} {c : Code} {n : Nibble} (h : i.asFirst = some (c, n)) : i = plainFirst c n := by
  cases i with
  | incS1 | decS1 | rightS1 | leftS1 | rsvp4S1 | rsvp5S1 | outS1 | inS1 => cases h; rfl
  | _ => cases h

/-- The bytes of a plain code of slot 1 give it back in slot 1, whatever stands in slot 2. -/
theorem decodeAt_encode_first {i : Instr} {c : Code} {n : Nibble} (h : i.asFirst = some (c, n)) (rest : List Byte) :
    decodeAt .one (encode i ++ rest) = some i := by
  obtain rfl := eq_plainFirst h
  have hlow : (headerByte false c n).toNat < 128 := by
    have := c.isLt
    have := n.isLt
    rw [headerByte_toNat, Bool.toNat_false]
    omega
  obtain ⟨i, hd, -⟩ := decode_of_highBit_clear hlow ((plainFirst c n).tail ++ rest)
  rw [encode, plainFirst_header, List.cons_append, decodeAt_of_ok hd]
  simp [Packet.inSlot]

/-- A sub-operation of slot 2 is one of its nibbles' shape: a plain code in the header byte alone, or an extended opcode with
its operand. -/
theorem encode_second_cases {i : Instr} {c : Code} {n : Nibble} (h : i.asSecond = some (c, n)) :
    ((nibbleHighBit n = false ∨ nibbleCode n = 6) ∧ plainSecond c n = some i ∧ encode i = [headerByte false c n]) ∨
      (nibbleHighBit n = true ∧ nibbleCode n ≠ 6 ∧ ∃ w, extendedSecond c (nibbleCode n) w = some i ∧
        encode i = headerByte false c n :: operandBytes w) := by
  cases i with
  | incS2 | decS2 | rightS2 | leftS2 | rsvp4S2 | rsvp5S2 | outS2 | inS2 | rsvpeS2 =>
    cases h
    exact .inl ⟨by decide, rfl, rfl⟩
  | addnPX | subnPX | rightnPX | leftnPX | jzPX | jnzPX | rsvx7PX =>
    cases h
    exact .inr ⟨by decide, by decide, _, rfl, rfl⟩
  | _ => cases h

/-- A standalone extended opcode is its selector's, with its operand. -/
theorem encode_alone {i : Instr} (hslot : i.slot = .one) (hfirst : i.asFirst = none) :
    ∃ spb pad w, extendedAlone spb pad w = i ∧ encode i = headerByte true spb pad :: operandBytes w := by
  cases i with
  | addnX | subnX | rightnX | leftnX | jzX | jnzX | rsvx6X | rsvx7X => exact ⟨_, _, _, rfl, rfl⟩
  | incS1 | decS1 | rightS1 | leftS1 | rsvp4S1 | rsvp5S1 | outS1 | inS1 => cases hfirst
  | _ => cases hslot

/-- The bytes of a sub-operation of slot 2 give it back, after the plain code of the two nibbles it stands with. -/
theorem decode_encode_second {i : Instr} {c : Code} {n : Nibble} (h : i.asSecond = some (c, n)) (rest : List Byte) :
    decode (encode i ++ rest) = .ok ⟨plainFirst c n, some i⟩ := by
  rcases encode_second_cases h with ⟨hn, hi, henc⟩ | ⟨hbit, hcode, w, hi, henc⟩
  · rw [henc]
    exact decode_plain hn hi rest
  · rw [henc, List.cons_append]
    exact decode_extended hbit hcode (by rw [operandOf_operandBytes, hi])

/-- The bytes of a standalone extended opcode give it back, with nothing in slot 2. -/
theorem decode_encode_alone {i : Instr} (hslot : i.slot = .one) (hfirst : i.asFirst = none) (rest : List Byte) :
    decode (encode i ++ rest) = .ok ⟨i, none⟩ := by
  obtain ⟨spb, pad, w, hi, henc⟩ := encode_alone hslot hfirst
  rw [henc, List.cons_append, decode_alone, operandOf_operandBytes, hi]

/-- A sub-operation of slot 2 has the two nibbles of its header byte. -/
theorem asSecond_of_slot_two {i : Instr} (h : i.slot = .two) : ∃ c n, i.asSecond = some (c, n) := by
  cases i with
  | incS2 | decS2 | rightS2 | leftS2 | rsvp4S2 | rsvp5S2 | outS2 | inS2 | rsvpeS2 => exact ⟨_, _, rfl⟩
  | addnPX | subnPX | rightnPX | leftnPX | jzPX | jnzPX | rsvx7PX => exact ⟨_, _, rfl⟩
  | _ => cases h

/-- Settles O2, by the place of the sub-operation: a plain code in slot 1, an extended opcode alone, or slot 2. -/
theorem decodeGivesBackWhatEncodeWrites : Obligations.DecodeGivesBackWhatEncodeWrites := by
  unfold Obligations.DecodeGivesBackWhatEncodeWrites
  intro i rest
  cases hslot : i.slot with
  | one =>
    cases hfirst : i.asFirst with
    | some nibbles => exact decodeAt_encode_first hfirst rest
    | none => exact decodeAt_of_ok (decode_encode_alone hslot hfirst rest)
  | two =>
    obtain ⟨c, n, hsecond⟩ := asSecond_of_slot_two hslot
    exact decodeAt_of_ok (decode_encode_second hsecond rest)

/-- A well-formed packet is a standalone extended opcode, or a plain code and a sub-operation of slot 2 with the same two
nibbles. -/
theorem Packet.wf_cases {p : Packet} (h : p.wf = true) :
    (p.first.slot = .one ∧ p.first.asFirst = none ∧ p.second = none) ∨
      ∃ c n i, p.first.asFirst = some (c, n) ∧ p.second = some i ∧ i.asSecond = some (c, n) := by
  obtain ⟨first, second⟩ := p
  simp only [Packet.wf, Packet.firstInSlotOne, Packet.secondAsShapeSays, Packet.oneHeaderByte, Bool.and_eq_true,
    beq_iff_eq] at h
  obtain ⟨⟨hslot, hshape⟩, hbyte⟩ := h
  cases second with
  | none => exact .inl ⟨hslot, by simpa using hshape, rfl⟩
  | some i =>
    simp only [Bool.and_eq_true, beq_iff_eq] at hbyte
    obtain ⟨hsome, hnibbles⟩ := hbyte
    obtain ⟨⟨c, n⟩, hfirst⟩ := Option.isSome_iff_exists.mp hsome
    exact .inr ⟨c, n, i, hfirst, rfl, hnibbles.symm.trans hfirst⟩

/-- Settles O3: the bytes are those of the last sub-operation, and its header byte says what stands before it. -/
theorem wellFormedPacketDecodesBack : Obligations.WellFormedPacketDecodesBack := by
  unfold Obligations.WellFormedPacketDecodesBack
  rintro ⟨first, second⟩ rest hwf
  rcases Packet.wf_cases hwf with ⟨hslot, hfirst, rfl⟩ | ⟨c, n, i, hfirst, rfl, hsecond⟩
  · exact decode_encode_alone hslot hfirst rest
  · obtain rfl := eq_plainFirst hfirst
    exact decode_encode_second hsecond rest

/-- Settles O1, by running the decoder on the eight words. -/
theorem wordsOfEachFormatDecode : Obligations.WordsOfEachFormatDecode := by
  unfold Obligations.WordsOfEachFormatDecode
  decide

end Sys2Proof

/-! What a running core keeps (spec/10_state.md sections 1, 2 and 5, spec/60_exceptions.md section 2): the invariant in the
form it has in `Running`, each way a sub-operation can go, and the induction over the one or two sub-operations of a step. -/

namespace Sys2Proof.Machine

/-! ### The step as its sub-operations -/

/-- The sub-operation that a core is about to run (R121, R132). -/
abbrev State.AboutToRun (s : State) (i : Instr) : Prop := decodeAt s.slot (s.bytesFrom s.pc.toNat) = some i

/-- What an effect leaves: where the core is in the program and how the run stands. -/
theorem Effect.keeps {i : Instr} {s u : State} (h : Effect i s u) :
    u.pc = s.pc ∧ u.slot = s.slot ∧ u.rs = s.rs ∧ u.exit = s.exit ∧ SameFaultRegisters s u := by
  cases h with
  | test | set | move | emit | take => exact ⟨rfl, rfl, rfl, rfl, rfl, rfl, rfl, rfl⟩

/-- Slot 2 comes next only after the effect of a plain code of slot 1 (R125). -/
theorem Ran.toSlotTwo_of_slot {i : Instr} {s u : State} (h : Ran i s u) (hs : s.slot = .one) (hu : u.slot = .two) :
    i.opnd = none ∧ i.slot = .one ∧ ∃ e, Effect i s e ∧ u = e.toSlotTwo := by
  cases h with
  | done heffect hfinish =>
    cases hfinish with
    | plain ho =>
      cases hi : i.slot with
      | one => exact ⟨ho, rfl, _, heffect, by rw [State.plainDone_one]⟩
      | two => rw [hi] at hu; cases hu
    | through | jump => cases hu
  | raised | readFailed | waits => exact absurd (hs.symm.trans hu) (by decide)

/-- What every sub-operation of a running core keeps, a step that loads nothing keeps. -/
theorem step_keeps {P : State → Prop} {s t : State} (hl : s.loadRequest = none) (h : step s = .next t) (hs : P s)
    (hexec : ∀ i s t, s.rs = .running → s.AboutToRun i → P s → exec i s = .next t → P t) : P t := by
  obtain ⟨hr, -, p, hp, hcases⟩ := step_ran hl h
  have hdecode (slot : Slot) : decodeAt slot (s.bytesFrom s.pc.toNat) = p.inSlot slot := decodeAt_of_ok hp
  have hfirstNext (hone : s.slot = .one) : s.AboutToRun p.first := by rw [State.AboutToRun, hdecode, hone]; rfl
  rcases hcases with ⟨hone, hfirst, -⟩ | ⟨hone, u, i, hfirst, htwo, hi, hsecond⟩ | ⟨htwo, i, hi, hsecond⟩
  · exact hexec _ _ _ hr (hfirstNext hone) hs hfirst
  · obtain ⟨-, -, e, heffect, rfl⟩ := (exec_ran hfirst).toSlotTwo_of_slot hone htwo
    obtain ⟨hpc, -, hrs, -⟩ := heffect.keeps
    obtain ⟨-, hprog, -⟩ := heffect.sameSetup
    have hnext : e.toSlotTwo.AboutToRun i := by
      rw [State.AboutToRun, State.bytesFrom, State.toSlotTwo_prog, State.toSlotTwo_pc, hprog, hpc]
      exact (hdecode _).trans hi
    have hkept : P e.toSlotTwo := hexec _ _ _ hr (hfirstNext hone) hs hfirst
    exact hexec _ e.toSlotTwo _ (hrs.trans hr) hnext hkept hsecond
  · exact hexec _ _ _ hr (by rw [State.AboutToRun, hdecode, htwo]; exact hi) hs hsecond

/-- The next sub-operation stands in the slot it is read from. -/
theorem State.AboutToRun.slot {s : State} {i : Instr} (h : s.AboutToRun i) : i.slot = s.slot := by
  simp only [State.AboutToRun, decodeAt] at h
  split at h
  next p hp =>
    obtain ⟨hfirst, hsecond, -⟩ := decode_slots hp
    cases hs : s.slot with
    | one => rw [hs] at h; cases h; exact hfirst
    | two => rw [hs] at h; exact hsecond i h
  next => cases h

/-- A plain code in slot 1 has a sub-operation after it (R82). -/
theorem State.AboutToRun.second_isSome {s : State} {i : Instr} (h : s.AboutToRun i) (hi : i.asFirst.isSome = true) :
    (decodeAt .two (s.bytesFrom s.pc.toNat)).isSome = true := by
  have hslot : s.slot = .one := by
    rw [← h.slot]
    cases i with
    | incS1 | decS1 | rightS1 | leftS1 | rsvp4S1 | rsvp5S1 | outS1 | inS1 => rfl
    | _ => cases hi
  simp only [State.AboutToRun, decodeAt, hslot] at h ⊢
  split at h
  next p hp =>
    obtain ⟨-, -, hshape⟩ := decode_slots hp
    cases h
    exact hshape.symm.trans hi
  next => cases h

/-- What completes in slot 1 with no operand is a plain code: the reserved selectors fault. -/
theorem Effect.asFirst_isSome {i : Instr} {s u : State} (h : Effect i s u) (ho : i.opnd = none) (hs : i.slot = .one) :
    i.asFirst.isSome = true := by
  cases i with
  | incS1 | decS1 | rightS1 | leftS1 | rsvp4S1 | rsvp5S1 | outS1 | inS1 => rfl
  | rsvx6X | rsvx7X => cases h <;> simp_all [Instr.op]
  | addnX | subnX | rightnX | leftnX | jzX | jnzX => cases ho
  | _ => cases hs

/-! ### The invariant of a running core -/

/-- `State.Inv` as it stands in `Running`. -/
structure State.RunningInv (s : State) : Prop where
  running : s.rs = .running
  tape : s.tapeWf
  pc_ge : 8 ≤ s.pc.toNat
  pc_lt : s.pc.toNat < s.len
  len_le : s.len ≤ 2 ^ 31 - 1
  second : s.slot = .two → (decodeAt .two (s.bytesFrom s.pc.toNat)).isSome = true
  config : variantOf (fetch32 s.prog 0) = some s.variant ∧ s.memsize = fetch32 s.prog 4 ∧
    s.tapeLen = tapeLength s.variant s.memsize
  cause : s.cause.code = 0
  fault : s.faultPc = 0 ∧ s.faultSlot = 0 ∧ s.faultInfo = 0
  exit : s.exit = none
  consumed : s.inConsumed ≤ s.inStream.length
  waits : s.waiting = true → s.inTape s.position ∧
    (decodeAt s.slot (s.bytesFrom s.pc.toNat)).map Instr.op = some .input

theorem State.Inv.runningInv {s : State} (h : s.Inv) (hr : s.rs = .running) : s.RunningInv := by
  obtain ⟨htape, ⟨hpc, -, hlen⟩, hslot, hconfig, ⟨hcause, -, -⟩, ⟨-, hfault⟩, ⟨hexit, -⟩, hconsumed, hwaits⟩ := h
  obtain ⟨hpcGe, hpcLt⟩ := hpc (.inl hr)
  exact {
    running := hr, tape := htape, pc_ge := hpcGe, pc_lt := hpcLt, len_le := hlen (.inl hr)
    second := fun hs => (hslot hs).2
    config := hconfig (.inl hr)
    cause := hcause (.inr (.inl hr))
    fault := hfault (by rw [hr]; decide)
    exit := hexit (.inr hr)
    consumed := hconsumed
    waits := fun hw => (hwaits hw).2 }

theorem State.RunningInv.inv {s : State} (h : s.RunningInv) : s.Inv := by
  have hr := h.running
  refine ⟨h.tape, ⟨fun _ => ⟨h.pc_ge, h.pc_lt⟩, by simp [hr], fun _ => h.len_le⟩, fun hs => ⟨.inl hr, h.second hs⟩,
    fun _ => h.config, ⟨fun _ => h.cause, by simp [hr], by simp [hr]⟩, ⟨by simp [hr], fun _ => h.fault⟩,
    ⟨fun _ => h.exit, by simp [hr], by simp [hr], by simp [hr]⟩, h.consumed, fun hw => ⟨hr, h.waits hw⟩⟩

/-- `State.Inv` as it stands in `Halted`. -/
theorem State.inv_of_halted {s : State} (hr : s.rs = .halted) (hslot : s.slot = .one) (hw : s.waiting = false)
    (hge : 8 ≤ s.pc.toNat) (hend : s.pc.toNat = s.len) (hlen : s.len ≤ 2 ^ 31 - 1) (htape : s.tapeWf)
    (hconfig : variantOf (fetch32 s.prog 0) = some s.variant ∧ s.memsize = fetch32 s.prog 4 ∧
      s.tapeLen = tapeLength s.variant s.memsize)
    (hcause : s.cause.code = 0) (hfault : s.faultPc = 0 ∧ s.faultSlot = 0 ∧ s.faultInfo = 0)
    (hexit : s.exit = some .success) (hconsumed : s.inConsumed ≤ s.inStream.length) : s.Inv :=
  ⟨htape, ⟨by simp [hr], fun _ => ⟨hge, hend⟩, fun _ => hlen⟩, by simp [hslot], fun _ => hconfig,
    ⟨fun _ => hcause, by simp [hr], by simp [hr]⟩, ⟨by simp [hr], fun _ => hfault⟩,
    ⟨by simp [hr], fun _ => hexit, by simp [hr], by simp [hr]⟩, hconsumed, by simp [hw]⟩

/-- Only an `IN` that is about to run has the core waiting (R40). -/
theorem State.RunningInv.not_waiting {s : State} {i : Instr} (h : s.RunningInv) (hi : s.AboutToRun i)
    (hop : i.op = .input → ¬s.inTape s.position) : s.waiting = false := by
  by_contra hw
  obtain ⟨hp, hinput⟩ := h.waits (by simpa using hw)
  rw [hi, Option.map_some, Option.some_inj] at hinput
  exact hop hinput hp

/-! ### What each way of ending keeps -/

/-- A write of an existing cell keeps the invariant. -/
theorem State.RunningInv.setCell {s : State} (h : s.RunningInv) (hp : s.inTape s.position) (v : Byte) :
    (s.setCell v).RunningInv :=
  { h with tape := State.tapeWf_setCell h.tape hp v }

/-- Every effect keeps the invariant and leaves no wait. -/
theorem Effect.runningInv {i : Instr} {s u : State} (heffect : Effect i s u) (hi : s.AboutToRun i) (h : s.RunningInv) :
    u.RunningInv ∧ u.waiting = false := by
  cases heffect with
  | test hop =>
    exact ⟨h, h.not_waiting hi (by rcases hop with hop | hop <;> simp [hop])⟩
  | set v hop hp => exact ⟨h.setCell hp v, h.not_waiting hi (by rintro hin; simp [hin] at hop)⟩
  | move n hop =>
    have hw : s.waiting = false := h.not_waiting hi (by rintro hin; simp [hin] at hop)
    exact ⟨{ h with waits := by simp [hw] }, hw⟩
  | emit hop hp => exact ⟨{ h with }, h.not_waiting hi (by simp [hop])⟩
  | take v hop hp hbyte =>
    obtain ⟨hlt, -⟩ := List.getElem?_eq_some_iff.mp hbyte
    have hconsume : s.consume.RunningInv := { h with consumed := hlt, waits := by simp }
    exact ⟨hconsume.setCell hp v, rfl⟩

/-- An instruction ends in the program, in `Running` short of its end and in `Halted` at it (R130). -/
theorem State.RunningInv.endInstr {s : State} (h : s.RunningInv) (hw : s.waiting = false) {p : Word} (hge : 8 ≤ p.toNat)
    (hle : p.toNat ≤ s.len) : (s.endInstr p).Inv := by
  by_cases hend : s.len ≤ p.toNat
  · exact State.inv_of_halted (if_pos hend) rfl hw hge (Nat.le_antisymm hle hend) h.len_le h.tape h.config h.cause h.fault
      (if_pos hend) h.consumed
  · have hr : (s.endInstr p).rs = .running := (if_neg hend).trans h.running
    have hx : (s.endInstr p).exit = none := (if_neg hend).trans h.exit
    exact State.RunningInv.inv { h with
      running := hr, exit := hx, pc_ge := hge, pc_lt := Nat.lt_of_not_le hend
      second := by simp
      waits := by simp [hw] }

/-- Slot 2 is next in a header byte that has one. -/
theorem State.RunningInv.toSlotTwo {s : State} (h : s.RunningInv) (hw : s.waiting = false)
    (hsecond : (decodeAt .two (s.bytesFrom s.pc.toNat)).isSome = true) : s.toSlotTwo.Inv :=
  State.RunningInv.inv { h with second := fun _ => hsecond, waits := by simp [hw] }

/-- A fault of a core that does not wait keeps the invariant (R250). -/
theorem State.RunningInv.raise {s : State} (h : s.RunningInv) (hw : s.waiting = false) {c : Cause} (hc : 3 ≤ c.code)
    (slot : Slot) (info : Int) : (s.raise c slot info).Inv := by
  have hslot : slotNumber slot ≠ 0 := by cases slot <;> decide
  exact ⟨h.tape, ⟨fun _ => ⟨h.pc_ge, h.pc_lt⟩, by simp, fun _ => h.len_le⟩, fun hs => ⟨.inr rfl, h.second hs⟩,
    fun _ => h.config, ⟨by simp, by simp, fun _ => hc⟩, ⟨fun _ => ⟨rfl, hslot⟩, by simp⟩,
    ⟨by simp, by simp, by simp, fun _ => rfl⟩, h.consumed, by simp [hw]⟩

/-- An addition to `pc` that stays inside a program of the accepted length does not wrap. -/
theorem pc_add_toNat {s : State} (hlen : s.len ≤ 2 ^ 31 - 1) {n : Nat} (h : s.pc.toNat + n ≤ s.len) :
    (s.pc + BitVec.ofNat 32 n).toNat = s.pc.toNat + n := by
  rw [BitVec.toNat_add, BitVec.toNat_ofNat]
  omega

/-- A sub-operation that completes keeps the invariant. -/
theorem Finish.inv {i : Instr} {s u t : State} (hfinish : Finish i s u t) (heffect : Effect i s u) (hi : s.AboutToRun i)
    (h : s.RunningInv) : t.Inv := by
  obtain ⟨hu, hw⟩ := heffect.runningInv hi h
  obtain ⟨hpc, -⟩ := heffect.keeps
  obtain ⟨-, hprog, -⟩ := heffect.sameSetup
  have hlen : u.len = s.len := congrArg List.length hprog
  have hge := h.pc_ge
  have hlt := h.pc_lt
  cases hfinish with
  | plain ho =>
    cases hs : i.slot with
    | one =>
      refine hu.toSlotTwo hw ?_
      rw [State.bytesFrom, hprog, hpc]
      exact hi.second_isSome (heffect.asFirst_isSome ho hs)
    | two =>
      have hnew : (u.pc + 1).toNat = s.pc.toNat + 1 := by rw [hpc]; exact pc_add_toNat h.len_le hlt
      exact hu.endInstr hw (by omega) (by omega)
  | through _ hinside =>
    have hnew : (s.pc + 5).toNat = s.pc.toNat + 5 := pc_add_toNat h.len_le hinside
    exact hu.endInstr hw (by omega) (by omega)
  | jump w _ _ _ hge hle => exact hu.endInstr hw hge (by omega)

/-- Every sub-operation of a running core keeps the invariant. -/
theorem exec_inv {i : Instr} {s t : State} (hr : s.rs = .running) (hi : s.AboutToRun i) (hinv : s.Inv)
    (h : exec i s = .next t) : t.Inv := by
  have hrun := hinv.runningInv hr
  cases exec_ran h with
  | done heffect hfinish => exact hfinish.inv heffect hi hrun
  | raised c info hc hop => exact hrun.raise (hrun.not_waiting hi fun hin => (hop hin).2) hc _ _
  | readFailed c info hc _ _ =>
    have hunblock : s.unblock.RunningInv := { hrun with waits := by simp }
    exact hunblock.raise rfl (by omega) _ _
  | waits hop hp =>
    refine State.RunningInv.inv { hrun with waits := fun _ => ⟨hp, ?_⟩ }
    exact (congrArg (Option.map Instr.op) hi).trans (congrArg some hop)

/-! ### The load -/

/-- An untouched tape is in canonical form. -/
theorem State.tapeWf_of_nil {s : State} (h : s.tape = []) : s.tapeWf := by
  rw [State.tapeWf, h]
  exact ⟨⟨.nil, by simp⟩, by simp⟩

/-- A load error keeps the invariant: the registers are those of power-on but for the status (R287). -/
theorem loadFail_inv {c : Cause} (hc : c.code = 1 ∨ c.code = 2) (run : Presented) : (loadFail c run).Inv := by
  have hr : (loadFail c run).rs = .loadFailed := rfl
  have htape : (loadFail c run).tapeWf := State.tapeWf_of_nil rfl
  have hslot : (loadFail c run).slot = .one := rfl
  have hwaiting : (loadFail c run).waiting = false := rfl
  exact ⟨htape, by simp [State.pcWf, hr], by simp [hslot], by simp [State.configWf, hr],
    ⟨by simp [hr], fun _ => hc, by simp [hr]⟩, ⟨by simp [hr], fun _ => ⟨rfl, rfl, rfl⟩⟩,
    ⟨by simp [hr], by simp [hr], fun _ => rfl, by simp [hr]⟩, Nat.zero_le _,
    by simp [hwaiting]⟩

/-- A good load keeps the invariant, in `Running` and, with no code after the header, in `Halted` (R286). -/
theorem loadGood_inv {variant : Variant} {run : Presented} (hmin : 8 ≤ run.prog.length)
    (hmax : run.prog.length ≤ 2 ^ 31 - 1) (hv : variantOf (fetch32 run.prog 0) = some variant) :
    (loadGood variant run).Inv := by
  have htape : (loadGood variant run).tapeWf := State.tapeWf_of_nil rfl
  by_cases hend : run.prog.length ≤ 8
  · exact State.inv_of_halted (if_pos hend) rfl rfl le_rfl (Nat.le_antisymm hmin hend) hmax htape ⟨hv, rfl, rfl⟩ rfl
      ⟨rfl, rfl, rfl⟩ (if_pos hend) (Nat.zero_le _)
  · exact State.RunningInv.inv {
      running := if_neg hend, tape := htape, pc_ge := le_rfl, pc_lt := Nat.lt_of_not_le hend, len_le := hmax
      second := nofun
      config := ⟨hv, rfl, rfl⟩
      cause := rfl
      fault := ⟨rfl, rfl, rfl⟩
      exit := if_neg hend
      consumed := Nat.zero_le _
      waits := nofun }

/-- Every load that answers a next state answers one with the invariant. -/
theorem load_inv {run : Presented} {t : State} (h : load run = .next t) : t.Inv := by
  obtain ⟨hmax, ⟨-, rfl⟩ | ⟨-, -, rfl⟩ | ⟨hmin, variant, hv, rfl⟩⟩ := load_cases h
  · exact loadFail_inv (.inl rfl) run
  · exact loadFail_inv (.inr rfl) run
  · exact loadGood_inv hmin hmax hv

/-- Settles O44: a load builds the invariant, and each sub-operation of a step keeps it. -/
theorem stepKeepsTheInvariant : Obligations.StepKeepsTheInvariant := by
  unfold Obligations.StepKeepsTheInvariant
  intro s t hinv h
  cases hl : s.loadRequest with
  | some run => exact load_inv ((step_load hl).symm.trans h)
  | none => exact step_keeps hl h hinv fun _ _ _ => exec_inv

/-! ### The cursor's range -/

theorem State.cursorSlack_of_one {s : State} (h : s.slot = .one) :
    s.cursorSlack = ((s.pc.toNat : Int) - 8) * (2 ^ 31 + 1) := by
  simp [State.cursorSlack, h]

theorem State.cursorSlack_of_two {s : State} (h : s.slot = .two) :
    s.cursorSlack = ((s.pc.toNat : Int) - 8) * (2 ^ 31 + 1) + 5 := by
  simp [State.cursorSlack, h]

@[simp] theorem State.cursorSlack_toSlotTwo (s : State) :
    s.toSlotTwo.cursorSlack = ((s.pc.toNat : Int) - 8) * (2 ^ 31 + 1) + 5 := State.cursorSlack_of_two rfl

@[simp] theorem State.cursorSlack_endInstr (s : State) (p : Word) :
    (s.endInstr p).cursorSlack = ((p.toNat : Int) - 8) * (2 ^ 31 + 1) := State.cursorSlack_of_one rfl

/-- The slack in either slot is at most that of slot 2. -/
theorem State.cursorSlack_le (s : State) : s.cursorSlack ≤ ((s.pc.toNat : Int) - 8) * (2 ^ 31 + 1) + 5 := by
  cases hs : s.slot with
  | one => rw [State.cursorSlack_of_one hs]; omega
  | two => rw [State.cursorSlack_of_two hs]

/-- How far an effect moves the cursor (R153, R154, R175, R176). -/
theorem Effect.position {i : Instr} {s u : State} (h : Effect i s u) :
    ∃ n : Int, u.position = s.position + n ∧ n.natAbs ≤ 2 ^ 31 ∧ (i.opnd = none → n.natAbs ≤ 1) := by
  cases h with
  | test | set | emit | take => exact ⟨0, (add_zero _).symm, by simp, by simp⟩
  | move n hop hplain hmax => exact ⟨n, rfl, hmax, hplain⟩

/-- A sub-operation that completes keeps the cursor's range: the bytes it spans allow for what it moved, and a taken jump
finds the cursor on a cell (R45). -/
theorem Finish.cursorWf {i : Instr} {s u t : State} (hfinish : Finish i s u t) (heffect : Effect i s u)
    (hslot : i.slot = s.slot) (h : s.RunningInv) (hcursor : s.cursorWf) : t.cursorWf := by
  obtain ⟨hlow, hhigh⟩ := hcursor (.inl h.running)
  obtain ⟨n, hposition, hmax, hplain⟩ := heffect.position
  obtain ⟨hpc, -⟩ := heffect.keeps
  obtain ⟨-, -, -, -, htapeLen, -⟩ := heffect.sameSetup
  have hlt := h.pc_lt
  intro _
  cases hfinish with
  | plain ho =>
    have hstep := hplain ho
    cases hs : i.slot with
    | one =>
      rw [State.cursorSlack_of_one (hslot.symm.trans hs)] at hlow hhigh
      simp only [State.plainDone_one, State.cursorSlack_toSlotTwo, State.toSlotTwo_position, State.toSlotTwo_tapeLen,
        hposition, hpc, htapeLen]
      omega
    | two =>
      have hnew : (s.pc + 1).toNat = s.pc.toNat + 1 := pc_add_toNat h.len_le hlt
      rw [State.cursorSlack_of_two (hslot.symm.trans hs)] at hlow hhigh
      simp only [State.plainDone_two, State.cursorSlack_endInstr, State.endInstr_position, State.endInstr_tapeLen,
        hposition, hpc, htapeLen, hnew]
      omega
  | through _ hinside =>
    have hnew : (s.pc + 5).toNat = s.pc.toNat + 5 := pc_add_toNat h.len_le hinside
    have hslack := s.cursorSlack_le
    simp only [State.cursorSlack_endInstr, State.endInstr_position, State.endInstr_tapeLen, hposition, htapeLen, hnew]
    omega
  | jump w _ hu hp hge =>
    obtain ⟨h0, h1⟩ := hp
    simp only [State.cursorSlack_endInstr, State.endInstr_position, State.endInstr_tapeLen, hu]
    omega

/-- Every sub-operation of a running core keeps the cursor's range. -/
theorem exec_cursorWf {i : Instr} {s t : State} (hr : s.rs = .running) (hi : s.AboutToRun i) (hinv : s.Inv)
    (hcursor : s.cursorWf) (h : exec i s = .next t) : t.cursorWf := by
  cases exec_ran h with
  | done heffect hfinish => exact hfinish.cursorWf heffect hi.slot (hinv.runningInv hr) hcursor
  | raised | readFailed | waits => exact fun _ => hcursor (.inl hr)

/-- The cursor of a fresh tape is at its first cell (R28, D13). -/
theorem initPosition_eq_zero (variant : Variant) : initPosition variant = 0 := by cases variant <;> rfl

/-- A good load puts the cursor in range. -/
theorem loadGood_cursorWf (variant : Variant) (run : Presented) : (loadGood variant run).cursorWf := by
  intro _
  have hposition : (loadGood variant run).position = 0 := initPosition_eq_zero variant
  have hpc : (loadGood variant run).pc.toNat = 8 := rfl
  have hslack : (loadGood variant run).cursorSlack = 0 := by rw [State.cursorSlack_of_one rfl, hpc]; simp
  rw [hposition, hslack]
  omega

/-- With no program loaded the range says nothing. -/
theorem loadFail_cursorWf (c : Cause) (run : Presented) : (loadFail c run).cursorWf := by
  have hr : (loadFail c run).rs = .loadFailed := rfl
  simp [State.cursorWf, State.loaded, hr]

/-- Every load that answers a next state puts the cursor in range. -/
theorem load_cursorWf {run : Presented} {t : State} (h : load run = .next t) : t.cursorWf := by
  obtain ⟨-, ⟨-, rfl⟩ | ⟨-, -, rfl⟩ | ⟨-, variant, -, rfl⟩⟩ := load_cases h
  · exact loadFail_cursorWf _ run
  · exact loadFail_cursorWf _ run
  · exact loadGood_cursorWf variant run

/-- Settles O45: the range is kept together with the invariant, which bounds `pc` in slot 2. -/
theorem stepKeepsTheCursorRange : Obligations.StepKeepsTheCursorRange := by
  unfold Obligations.StepKeepsTheCursorRange
  intro s t hinv hcursor h
  cases hl : s.loadRequest with
  | some run => exact load_cursorWf ((step_load hl).symm.trans h)
  | none =>
    have hkeeps (i : Instr) (s t : State) (hr : s.rs = .running) (hi : s.AboutToRun i) (hs : s.Inv ∧ s.cursorWf)
        (h : exec i s = .next t) : t.Inv ∧ t.cursorWf :=
      ⟨exec_inv hr hi hs.1 h, exec_cursorWf hr hi hs.1 hs.2 h⟩
    exact (step_keeps (P := fun s => s.Inv ∧ s.cursorWf) hl h ⟨hinv, hcursor⟩ hkeeps).2

end Sys2Proof.Machine

/-! What every sub-operation does and leaves (spec/60_exceptions.md section 2, spec/20_memory.md R61, R67): that it
answers, what a fault changes, who writes what, and the same for a step. -/

namespace Sys2Proof.Machine

/-! ### Every sub-operation answers a next state -/

/-- The bound check answers, if what follows it does. -/
theorem onCell_answers {slot : Slot} {s : State} {k : Byte → Result} (hk : ∀ v, ∃ t, k v = .next t) :
    ∃ t, onCell slot s k = .next t := by
  by_cases hp : s.inTape s.position
  · rw [onCell_in hp]
    exact hk _
  · exact ⟨_, onCell_out hp⟩

/-- The truncation check answers, if what follows it does. -/
theorem onOperand_answers {slot : Slot} {s : State} {k : Result} (hk : ∃ t, k = .next t) :
    ∃ t, onOperand slot s k = .next t := by
  by_cases hp : s.pc.toNat + 4 < s.len
  · rw [onOperand_in hp]
    exact hk
  · exact ⟨_, onOperand_out (Nat.le_of_not_lt hp)⟩

theorem jumpTo_answers (slot : Slot) (target : Int) (s : State) : ∃ t, jumpTo slot target s = .next t := by
  unfold jumpTo
  split <;> exact ⟨_, rfl⟩

theorem opOut_answers (slot : Slot) (s : State) : ∃ t, opOut slot s = .next t := by
  refine onCell_answers fun v => ?_
  cases s.writeAnswer <;> exact ⟨_, rfl⟩

theorem opIn_answers (slot : Slot) (s : State) : ∃ t, opIn slot s = .next t := by
  refine onCell_answers fun _ => ?_
  cases s.readAnswer <;> exact ⟨_, rfl⟩

/-- A jump with the operand inside the program answers whether or not it is taken. -/
theorem onOperand_jump_answers (slot : Slot) (s : State) (taken : Byte → Bool) (target : Int) :
    ∃ t, (onOperand slot s <| onCell slot s fun v =>
      if taken v then jumpTo slot target s else .next (s.endInstr (s.pc + 5))) = .next t := by
  refine onOperand_answers (onCell_answers fun v => ?_)
  cases taken v with
  | true => exact jumpTo_answers slot target s
  | false => exact ⟨_, rfl⟩

/-- Settles O27: each check answers the fault or what follows it, and what follows answers. -/
theorem everyInstructionAnswersANextState : Obligations.EveryInstructionAnswersANextState := by
  unfold Obligations.EveryInstructionAnswersANextState
  intro i s
  cases i with
  | incS1 | incS2 | decS1 | decS2 => exact onCell_answers fun _ => ⟨_, rfl⟩
  | rightS1 | rightS2 | leftS1 | leftS2 => exact ⟨_, rfl⟩
  | outS1 | outS2 => exact opOut_answers _ s
  | inS1 | inS2 => exact opIn_answers _ s
  | addnX | addnPX | subnX | subnPX => exact onOperand_answers (onCell_answers fun _ => ⟨_, rfl⟩)
  | rightnX | rightnPX | leftnX | leftnPX => exact onOperand_answers ⟨_, rfl⟩
  | jzX | jzPX => exact onOperand_jump_answers _ s isZero _
  | jnzX | jnzPX => exact onOperand_jump_answers _ s isNonzero _
  | rsvp4S1 | rsvp5S1 | rsvp4S2 | rsvp5S2 | rsvpeS2 | rsvx6X | rsvx7X | rsvx7PX => exact ⟨_, rfl⟩

/-- After a wait in slot 2 the packet runs slot 2 alone (R133). -/
theorem runPacket_second {p : Packet} {s : State} {i : Instr} (hs : s.slot = .two) (hi : p.second = some i) :
    runPacket p s = exec i s := by
  simp only [runPacket, hs, runSecond, hi]

/-- Settles O32: the header byte is in the program and decodes, and each sub-operation it has answers. -/
theorem runningCoreAlwaysSteps : Obligations.RunningCoreAlwaysSteps := by
  unfold Obligations.RunningCoreAlwaysSteps
  intro s hinv hr hl
  have hrun := hinv.runningInv hr
  obtain ⟨b, hb⟩ := Option.isSome_iff_exists.mp (State.fetch_isSome.mpr hrun.pc_lt)
  obtain ⟨p, hp, -⟩ := everyHeaderByteHasOneShapeAndLength b (s.bytesFrom (s.pc.toNat + 1))
  rw [← State.bytesFrom_of_fetch hb] at hp
  rw [step_packet hl hr hrun.pc_ge hp]
  have hdecode (slot : Slot) : decodeAt slot (s.bytesFrom s.pc.toNat) = p.inSlot slot := decodeAt_of_ok hp
  cases hs : s.slot with
  | two =>
    have hsecond := hrun.second hs
    rw [hdecode] at hsecond
    obtain ⟨i, hi⟩ := Option.isSome_iff_exists.mp hsecond
    rw [runPacket_second hs hi]
    exact everyInstructionAnswersANextState i s
  | one =>
    obtain ⟨u, hu⟩ := everyInstructionAnswersANextState p.first s
    cases hus : u.slot with
    | one => exact ⟨u, runPacket_one hs hu hus⟩
    | two =>
      obtain ⟨ho, hone, e, heffect, -⟩ := (exec_ran hu).toSlotTwo_of_slot hs hus
      obtain ⟨-, -, hshape⟩ := decode_slots hp
      obtain ⟨i, hi⟩ := Option.isSome_iff_exists.mp (hshape.symm.trans (heffect.asFirst_isSome ho hone))
      rw [runPacket_two hs hu hus hi]
      exact everyInstructionAnswersANextState i u

/-- Settles O31, by the slot that is next. -/
theorem stepRunsTheDecodedInstruction : Obligations.StepRunsTheDecodedInstruction := by
  unfold Obligations.StepRunsTheDecodedInstruction
  intro s p hl hr hpc hd
  rw [step_packet hl hr hpc hd]
  exact ⟨fun _ => runPacket_one, fun _ _ => runPacket_two, fun _ => runPacket_second⟩

/-! ### What a fault changes -/

/-- A sub-operation of a running core that completes leaves the core in `Running` or in `Halted`. -/
theorem Finish.rs {i : Instr} {s u t : State} (h : Finish i s u t) (hr : u.rs = .running) :
    t.rs = .running ∨ t.rs = .halted := by
  have hend (p : Word) : (u.endInstr p).rs = .running ∨ (u.endInstr p).rs = .halted := by
    rw [State.endInstr_rs, hr]
    split
    · exact .inr rfl
    · exact .inl rfl
  cases h with
  | plain =>
    cases i.slot with
    | one => exact .inl hr
    | two => exact hend _
  | through | jump => exact hend _

/-- The end of a sub-operation leaves what its effect has written. -/
theorem Finish.keeps {i : Instr} {s u t : State} (h : Finish i s u t) :
    t.tape = u.tape ∧ t.position = u.position ∧ SamePort u t ∧ SameFaultRegisters u t := by
  cases h with
  | plain => cases i.slot <;> exact ⟨rfl, rfl, ⟨rfl, rfl, rfl⟩, rfl, rfl, rfl, rfl⟩
  | through | jump => exact ⟨rfl, rfl, ⟨rfl, rfl, rfl⟩, rfl, rfl, rfl, rfl⟩

/-- What completes records no fault. -/
theorem Finish.no_fault {i : Instr} {s u t : State} (hfinish : Finish i s u t) (heffect : Effect i s u)
    (hr : s.rs = .running) : t.rs ≠ .faulted ∧ SameFaultRegisters s t := by
  obtain ⟨-, -, hrs, -, hcause, hpc, hslot, hinfo⟩ := heffect.keeps
  obtain ⟨-, -, -, hcause', hpc', hslot', hinfo'⟩ := hfinish.keeps
  refine ⟨fun hf => ?_, hcause'.trans hcause, hpc'.trans hpc, hslot'.trans hslot, hinfo'.trans hinfo⟩
  rcases hfinish.rs (hrs.trans hr) with h | h <;> exact absurd (h.symm.trans hf) (by decide)

/-- Settles O28, by the ways a sub-operation can go: only `raise` records a fault. -/
theorem faultChangesOnlyTheStatusRegisters : Obligations.FaultChangesOnlyTheStatusRegisters := by
  unfold Obligations.FaultChangesOnlyTheStatusRegisters
  intro i s t hr h
  cases exec_ran h with
  | done heffect hfinish =>
    obtain ⟨hne, hsame⟩ := hfinish.no_fault heffect hr
    exact ⟨fun hf => absurd hf hne, fun _ => hsame⟩
  | raised c info hc hop =>
    refine ⟨fun _ => ⟨by rintro rfl; contradiction, ?_⟩, fun hne => absurd rfl hne⟩
    rw [if_neg fun hwait => hwait.2 (hop hwait.1).1]
    exact s.raise_raised c i.slot info
  | readFailed c info hc hop =>
    refine ⟨fun _ => ⟨by rintro rfl; contradiction, ?_⟩, fun hne => absurd rfl hne⟩
    rw [if_pos ⟨hop, by rintro rfl; contradiction⟩]
    exact s.unblock_raise_raised c i.slot info
  | waits => exact ⟨fun hf => absurd (hr.symm.trans hf) (by decide), fun _ => ⟨rfl, rfl, rfl, rfl⟩⟩

/-! ### Who writes what -/

/-- Settles O30, by the effect: the ways of ending and of faulting write none of these. -/
theorem eachInstructionWritesOnlyItsOwn : Obligations.EachInstructionWritesOnlyItsOwn := by
  unfold Obligations.EachInstructionWritesOnlyItsOwn
  intro i s t h
  cases exec_ran h with
  | done heffect hfinish =>
    obtain ⟨htape, hposition, ⟨hout, hin, hwaiting⟩, -⟩ := hfinish.keeps
    rw [htape, hposition, hout, hin, hwaiting]
    cases heffect with
    | test => exact ⟨.inr rfl, .inr rfl, .inr rfl, .inr ⟨rfl, rfl⟩⟩
    | set v hop => exact ⟨.inl (List.mem_append_left [Op.input] hop), .inr rfl, .inr rfl, .inr ⟨rfl, rfl⟩⟩
    | move n hop => exact ⟨.inr rfl, .inl hop, .inr rfl, .inr ⟨rfl, rfl⟩⟩
    | emit hop => exact ⟨.inr rfl, .inr rfl, .inl hop, .inr ⟨rfl, rfl⟩⟩
    | take v hop => exact ⟨.inl (by simp [hop]), .inr rfl, .inr rfl, .inl hop⟩
  | raised => exact ⟨.inr rfl, .inr rfl, .inr rfl, .inr ⟨rfl, rfl⟩⟩
  | readFailed _ _ _ hop => exact ⟨.inr rfl, .inr rfl, .inr rfl, .inl hop⟩
  | waits hop => exact ⟨.inr rfl, .inr rfl, .inr rfl, .inl hop⟩

/-! ### The step -/

/-- A sub-operation of a running core leaves a run that goes on or is over. -/
theorem exec_loaded {i : Instr} {s t : State} (hr : s.rs = .running) (h : exec i s = .next t) : t.loaded := by
  cases exec_ran h with
  | done heffect hfinish =>
    obtain ⟨-, -, hrs, -⟩ := heffect.keeps
    exact (hfinish.rs (hrs.trans hr)).imp_right .inl
  | raised | readFailed => exact .inr (.inr rfl)
  | waits => exact .inl hr

/-- Settles O39: the step keeps the invariant, which ties `Halted` to the end of the program. -/
theorem stepHaltsExactlyAtTheEnd : Obligations.StepHaltsExactlyAtTheEnd := by
  unfold Obligations.StepHaltsExactlyAtTheEnd
  intro s t hinv hr hl h
  have hloaded : t.loaded := step_keeps (P := State.loaded) hl h (.inl hr) fun _ _ _ hr _ _ => exec_loaded hr
  obtain ⟨-, ⟨hinside, hend, -⟩, -, -, ⟨hcause, -⟩, -, ⟨-, hexit, -⟩, -⟩ := stepKeepsTheInvariant s t hinv h
  refine ⟨⟨fun hh => (hend hh).2, fun hpc => ?_⟩, fun hh => ⟨hexit hh, hcause (.inr (.inr hh))⟩⟩
  by_contra hne
  have hlt := (hinside (hloaded.imp_right fun hor => hor.resolve_left hne)).2
  omega

/-- The fault of a sub-operation is recorded at the header byte (R250). -/
theorem exec_fault {i : Instr} {s t : State} (hr : s.rs = .running) (h : exec i s = .next t) (hf : t.rs = .faulted) :
    t.pc = s.pc ∧ t.faultPc = s.pc ∧ t.faultSlot ≠ 0 := by
  obtain ⟨-, -, hfaultPc, hfaultSlot, -, -, -, hpc, -⟩ := (faultChangesOnlyTheStatusRegisters i s t hr h).1 hf
  refine ⟨hpc, hfaultPc, fun hzero => ?_⟩
  rw [hzero] at hfaultSlot
  cases hi : i.slot <;> simp [hi] at hfaultSlot

/-- An effect starts no wait. -/
theorem Effect.waiting {i : Instr} {s u : State} (h : Effect i s u) (hs : s.waiting = false) : u.waiting = false := by
  cases h with
  | test | set | move | emit => exact hs
  | take => rfl

/-- A sub-operation that starts to wait changes nothing else (R133). -/
theorem exec_starts_waiting {i : Instr} {s t : State} (h : exec i s = .next t) (hs : s.waiting = false)
    (ht : t.waiting = true) : t = s.block := by
  cases exec_ran h with
  | done heffect hfinish =>
    obtain ⟨-, -, ⟨-, -, hwaiting⟩, -⟩ := hfinish.keeps
    exact absurd (ht.symm.trans (hwaiting.trans (heffect.waiting hs))) (by decide)
  | raised => exact absurd (ht.symm.trans hs) (by decide)
  | readFailed => exact absurd ht Bool.false_ne_true
  | waits => rfl

/-- Settles O40: the sub-operation that faults or starts to wait leaves `pc`, and so did a plain code before it. -/
theorem faultOrWaitLeavesPc : Obligations.FaultOrWaitLeavesPc := by
  unfold Obligations.FaultOrWaitLeavesPc
  intro s t hr hl h
  have alone {i : Instr} {s : State} (hr : s.rs = .running) (h : exec i s = .next t) :
      (t.rs = .faulted → t.pc = s.pc ∧ t.faultPc = s.pc ∧ t.faultSlot ≠ 0) ∧
        (t.waiting = true → s.waiting = false → t.pc = s.pc ∧ t.rs = .running) := by
    refine ⟨exec_fault hr h, fun ht hs => ?_⟩
    rw [exec_starts_waiting h hs ht]
    exact ⟨rfl, hr⟩
  obtain ⟨-, -, p, -, ⟨-, hfirst, -⟩ | ⟨hone, u, i, hfirst, htwo, -, hsecond⟩ | ⟨-, i, -, hsecond⟩⟩ := step_ran hl h
  · exact alone hr hfirst
  · obtain ⟨-, -, e, heffect, rfl⟩ := (exec_ran hfirst).toSlotTwo_of_slot hone htwo
    obtain ⟨hpc, -, hrs, -⟩ := heffect.keeps
    obtain ⟨hfault, hwait⟩ := alone (s := e.toSlotTwo) (hrs.trans hr) hsecond
    simp only [State.toSlotTwo_pc, hpc] at hfault hwait
    exact ⟨hfault, fun ht hs => hwait ht (heffect.waiting hs)⟩
  · exact alone hr hsecond

/-- A sub-operation appends at most one byte and consumes at most one. -/
theorem exec_streams {i : Instr} {s t : State} (h : exec i s = .next t) :
    (∃ bytes, t.outStream = s.outStream ++ bytes ∧ bytes.length ≤ 1) ∧
      s.inConsumed ≤ t.inConsumed ∧ t.inConsumed ≤ s.inConsumed + 1 := by
  have unchanged {t : State} (hout : t.outStream = s.outStream) (hin : t.inConsumed = s.inConsumed) :
      (∃ bytes, t.outStream = s.outStream ++ bytes ∧ bytes.length ≤ 1) ∧
        s.inConsumed ≤ t.inConsumed ∧ t.inConsumed ≤ s.inConsumed + 1 :=
    ⟨⟨[], by simp [hout], by simp⟩, by omega, by omega⟩
  cases exec_ran h with
  | done heffect hfinish =>
    obtain ⟨-, -, ⟨hout, hin, -⟩, -⟩ := hfinish.keeps
    cases heffect with
    | test | set | move => exact unchanged hout hin
    | emit => exact ⟨⟨[_], hout, le_rfl⟩, hin.ge, by rw [hin]; exact Nat.le_succ _⟩
    | take => exact ⟨⟨[], by simp [hout], by simp⟩, by rw [hin]; exact Nat.le_succ _, hin.le⟩
  | raised | readFailed | waits => exact unchanged rfl rfl

/-- Settles O41: a step runs at most two sub-operations. -/
theorem stepOnlyAppendsOutputAndConsumesInput : Obligations.StepOnlyAppendsOutputAndConsumesInput := by
  unfold Obligations.StepOnlyAppendsOutputAndConsumesInput
  intro s t hl h
  have alone {i : Instr} (h : exec i s = .next t) : (∃ bytes, t.outStream = s.outStream ++ bytes ∧ bytes.length ≤ 2) ∧
      s.inConsumed ≤ t.inConsumed ∧ t.inConsumed ≤ s.inConsumed + 2 := by
    obtain ⟨⟨bytes, hout, hlen⟩, hge, hle⟩ := exec_streams h
    exact ⟨⟨bytes, hout, by omega⟩, hge, by omega⟩
  obtain ⟨-, -, p, -, ⟨-, hfirst, -⟩ | ⟨-, u, i, hfirst, -, -, hsecond⟩ | ⟨-, i, -, hsecond⟩⟩ := step_ran hl h
  · exact alone hfirst
  · obtain ⟨⟨bytes, hout, hlen⟩, hge, hle⟩ := exec_streams hfirst
    obtain ⟨⟨bytes', hout', hlen'⟩, hge', hle'⟩ := exec_streams hsecond
    refine ⟨⟨bytes ++ bytes', by rw [hout', hout, List.append_assoc], ?_⟩, by omega, by omega⟩
    rw [List.length_append]
    omega
  · exact alone hsecond

end Sys2Proof.Machine

/-! Power-on, load and host (spec/70_reset_and_hazards.md sections 1 and 5), and what the invariant says of a run: the
bound of the cursor and the exit code. -/

namespace Sys2Proof.Machine

/-! ### Power-on and the run states -/

/-- Settles O7, part by part of the invariant. -/
theorem powerOnStateIsUnloadedAndSound : Obligations.PowerOnStateIsUnloadedAndSound := by
  unfold Obligations.PowerOnStateIsUnloadedAndSound
  exact ⟨rfl, rfl, State.tapeWf_of_nil rfl, by decide, by decide, by decide, by decide, by decide, by decide, by decide⟩

/-- Settles O8, by the run state. -/
theorem noStepIsTakenOutsideRunning : Obligations.NoStepIsTakenOutsideRunning := by
  unfold Obligations.NoStepIsTakenOutsideRunning
  intro s hl hr
  cases hrs : s.rs with
  | running => exact absurd hrs hr
  | unloaded => exact ⟨.unloaded, by simp [step, sequenceStep, hl, hrs], by decide⟩
  | halted => exact ⟨.halted, by simp [step, sequenceStep, hl, hrs], by decide⟩
  | faulted => exact ⟨.faulted, by simp [step, sequenceStep, hl, hrs], by decide⟩
  | loadFailed => exact ⟨.loadFailed, by simp [step, sequenceStep, hl, hrs], by decide⟩

/-! ### The load -/

/-- The four bytes of the BF magic select the BF variant (R283). -/
theorem variantOf_bfMagicBytes : variantOf (bigEndian 0xFF 0x6D 0x68 0xFD) = some .bf := by decide

/-- A core without cells has none to read (R24, R203). -/
theorem State.memRead_of_tapeLen_zero {s : State} (h : s.tapeLen = 0) (a : Int) : s.memRead a = none := by
  refine if_neg fun hp => ?_
  obtain ⟨hge, hlt⟩ := hp
  rw [h] at hlt
  omega

/-- Settles O10: the step is the good load of the BF variant, whose tape is all load values. -/
theorem loadOfBfHeaderBuildsItsTape : Obligations.LoadOfBfHeaderBuildsItsTape := by
  unfold Obligations.LoadOfBfHeaderBuildsItsTape
  intro s run m0 m1 m2 m3 code hl hprog hlen
  have hlength : run.prog.length = code.length + 8 := by rw [hprog]; rfl
  have hmagic : fetch32 run.prog 0 = bigEndian 0xFF 0x6D 0x68 0xFD := by rw [hprog]; rfl
  have hmemsize : fetch32 run.prog 4 = bigEndian m0 m1 m2 m3 := by rw [hprog]; rfl
  have hvariant : variantOf (fetch32 run.prog 0) = some .bf := by rw [hmagic, variantOf_bfMagicBytes]
  refine ⟨loadGood .bf run, step_loadGood hl (by omega) (by omega) hvariant, loadGood_variant .bf run, ?_,
    loadGood_tapeLen .bf run, fun i _ => loadGood_cell .bf run i,
    fun hzero => State.memRead_of_tapeLen_zero ((loadGood_tapeLen .bf run).trans hzero)⟩
  rw [loadGood_memsize, hmemsize, bigEndian_toNat]

/-- Settles O11: a good magic selects a variant, and the good load of either sets these registers. -/
theorem goodLoadSetsTheRegisters : Obligations.GoodLoadSetsTheRegisters := by
  unfold Obligations.GoodLoadSetsTheRegisters
  intro s run hl hmin hmax hmagic
  have hsome : variantOf (fetch32 run.prog 0) ≠ none := by
    rw [Ne, variantOf_fetch32_eq_none_iff (by omega), not_and_or, not_not, not_not]
    exact hmagic
  obtain ⟨v, hv⟩ := Option.ne_none_iff_exists'.mp hsome
  refine ⟨loadGood v run, step_loadGood hl hmin hmax hv, rfl, rfl, initPosition_eq_zero v, rfl, rfl, rfl, rfl, rfl, rfl,
    rfl, rfl, rfl, rfl, rfl, fun hend => ?_, fun hcode => ?_⟩
  · exact ⟨if_pos hend.le, if_pos hend.le⟩
  · exact ⟨if_neg (Nat.not_le.mpr hcode), if_neg (Nat.not_le.mpr hcode)⟩

/-- Settles O13: the length is tested first, and no later answer is a refusal. -/
theorem tooLongBuffersAreRefused : Obligations.TooLongBuffersAreRefused := by
  unfold Obligations.TooLongBuffersAreRefused
  intro s run hl
  rw [step_load hl]
  constructor
  · intro hlong
    exact if_pos (by rw [Config.maxLength]; omega)
  · intro h
    by_contra hshort
    rw [load, if_neg (by rw [Config.maxLength]; omega)] at h
    split at h
    · cases h
    · cases hv : variantOf (fetch32 run.prog 0) <;> rw [hv] at h <;> cases h

/-- Settles O14: the load looks at the presented run alone. -/
theorem loadForgetsTheEarlierRun : Obligations.LoadForgetsTheEarlierRun := by
  unfold Obligations.LoadForgetsTheEarlierRun
  intro s s' run hl hl'
  rw [step_load hl, step_load hl']

/-! ### The host -/

/-- More input keeps the invariant: no more is consumed than there was. -/
theorem State.Inv.deliver {s : State} (h : s.Inv) (bytes : List Byte) :
    ({ s with inStream := s.inStream ++ bytes } : State).Inv := by
  obtain ⟨htape, hpc, hslot, hconfig, hcause, hfault, hexit, hconsumed, hwaits⟩ := h
  refine ⟨htape, hpc, hslot, hconfig, hcause, hfault, hexit, ?_, hwaits⟩
  show s.inConsumed ≤ (s.inStream ++ bytes).length
  rw [List.length_append]
  omega

/-- The host's delivery to a stream that has not ended. -/
theorem State.afterHost_deliver {s : State} (h : s.inEnded = false) (bytes : List Byte) :
    s.afterHost (.deliver bytes) = { s with inStream := s.inStream ++ bytes } := by
  simp [State.afterHost, h]

/-- Settles O48, by the move: only `deliver` writes a field that the invariant reads. -/
theorem hostMovesTouchOnlyTheEnvironment : Obligations.HostMovesTouchOnlyTheEnvironment := by
  unfold Obligations.HostMovesTouchOnlyTheEnvironment
  intro s m
  cases m with
  | present | failRead | failWrite =>
    exact ⟨id, ⟨[], (List.append_nil _).symm, fun _ => rfl⟩, id, rfl⟩
  | endInput => exact ⟨id, ⟨[], (List.append_nil _).symm, fun _ => rfl⟩, fun _ => rfl, rfl⟩
  | deliver bytes =>
    cases hended : s.inEnded with
    | true =>
      have hmove : s.afterHost (.deliver bytes) = s := by simp [State.afterHost, hended]
      rw [hmove]
      exact ⟨id, ⟨[], (List.append_nil _).symm, fun _ => rfl⟩, fun _ => hended, by rw [← hended]⟩
    | false =>
      rw [State.afterHost_deliver hended]
      exact ⟨fun h => h.deliver bytes, ⟨bytes, rfl, nofun⟩, nofun, by rw [← hended]⟩

/-! ### The bound of the cursor -/

/-- The longest tape a header can ask for (R26, R27). -/
theorem tapeLength_le (variant : Variant) (memsize : Word) : tapeLength variant memsize ≤ 2 ^ 33 + 8 := by
  have := memsize.isLt
  cases variant <;> simp only [tapeLength] <;> omega

/-- Where `pc` and the program's length are in a loaded state (R44). -/
theorem State.Inv.pc_le {s : State} (h : s.Inv) (hloaded : s.loaded) : s.pc.toNat ≤ s.len ∧ s.len ≤ 2 ^ 31 - 1 := by
  obtain ⟨-, ⟨hinside, hend, hlen⟩, -⟩ := h
  refine ⟨?_, hlen hloaded⟩
  rcases hloaded with hr | hh | hf
  · exact (hinside (.inl hr)).2.le
  · exact (hend hh).2.le
  · exact (hinside (.inr hf)).2.le

/-- Settles O46: the cursor's distance from the tape is bounded by the longest program, and the tape by the largest
header. -/
theorem cursorStaysBelowTwoToThe61 : Obligations.CursorStaysBelowTwoToThe61 := by
  unfold Obligations.CursorStaysBelowTwoToThe61
  intro s hinv hloaded hcursor
  obtain ⟨hpc, hlen⟩ := hinv.pc_le hloaded
  obtain ⟨hlow, hhigh⟩ := hcursor hloaded
  have hslack := s.cursorSlack_le
  have htape : s.tapeLen ≤ 2 ^ 33 + 8 := by
    obtain ⟨-, -, -, hconfig, -⟩ := hinv
    obtain ⟨-, -, htapeLen⟩ := hconfig hloaded
    exact htapeLen ▸ tapeLength_le _ _
  rw [abs_lt]
  omega

/-! ### The exit code -/

/-- Settles O47, by the run state. -/
theorem exitCodeSaysHowTheRunEnded : Obligations.ExitCodeSaysHowTheRunEnded := by
  unfold Obligations.ExitCodeSaysHowTheRunEnded
  intro s hinv
  obtain ⟨-, -, -, -, -, -, ⟨hnone, hsuccess, hloadError, hfault⟩, -⟩ := hinv
  have hreport : s.report.exitCode = s.exit.map ExitCode.value := rfl
  rw [hreport]
  cases hr : s.rs with
  | unloaded => simp [hnone (.inl hr)]
  | running => simp [hnone (.inr hr)]
  | halted => simp [hsuccess hr, ExitCode.value]
  | loadFailed => simp [hloadError hr, ExitCode.value]
  | faulted => simp [hfault hr, ExitCode.value, Config.faultExitCode]

end Sys2Proof.Machine

/-! Operands and the bits that are ignored (spec/20_memory.md R56, spec/30_encoding.md R87 to R89): what of an operand's
bytes the decoder and the cell arithmetic look at. -/

namespace Sys2Proof.Machine

/-! ### The operand's bytes -/

/-- The byte at an offset, with the value the model reads past the end. -/
theorem getD_of_getElem? {buffer : List Byte} {a : Nat} {b : Byte} (h : buffer[a]? = some b) : buffer.getD a 0 = b := by
  rw [List.getD_eq_getElem?_getD, h, Option.getD_some]

/-- The low byte of four joined bytes is the last (R55, R89). -/
theorem lowByte_bigEndian (o0 o1 o2 o3 : Byte) : lowByte (bigEndian o0 o1 o2 o3) = o3 := by
  apply BitVec.eq_of_toNat_eq
  rw [lowByte_toNat, bigEndian_toNat]
  omega

/-- A plain code of slot 1 has no operand. -/
theorem opnd_plainFirst : ∀ (c : Code) (n : Nibble), (plainFirst c n).opnd = none := by decide

/-- A standalone extended opcode has the operand it was read with, or is reserved and has none. -/
theorem opnd_extendedAlone (spb : Code) (pad : Nibble) (w : Word) :
    (extendedAlone spb pad w).opnd = some w ∨ (extendedAlone spb pad w).opnd = none := by
  rcases code_cases spb with rfl | rfl | rfl | rfl | rfl | rfl | rfl | rfl <;> simp [extendedAlone, Instr.opnd]

/-- What `packetOf` accepts. -/
theorem packetOf_eq_ok {first : Instr} {second : Option Instr} {p : Packet} (h : packetOf first second = .ok p) :
    ∃ i, second = some i ∧ p = ⟨first, some i⟩ := by
  cases second with
  | none => cases h
  | some i => cases h; exact ⟨i, rfl, rfl⟩

/-- The operand of either sub-operation of a packet is that of the bytes after the header byte (R88). -/
theorem opnd_of_decode {b : Byte} {rest : List Byte} {p : Packet} (h : decode (b :: rest) = .ok p) :
    (∀ w, p.first.opnd = some w → w = operandOf rest) ∧
      ∀ i w, p.second = some i → i.opnd = some w → w = operandOf rest := by
  rcases decode_shapes b rest with ⟨-, hd⟩ | ⟨-, -, -, hd⟩ | ⟨-, -, hd⟩
  · cases hd.symm.trans h
    refine ⟨fun w hw => ?_, nofun⟩
    rcases opnd_extendedAlone (nibbleCode (highNibble b)) (lowNibble b) (operandOf rest) with ho | ho
    · exact Option.some.inj (hw.symm.trans ho)
    · cases hw.symm.trans ho
  · obtain ⟨j, hj, rfl⟩ := packetOf_eq_ok (hd.symm.trans h)
    refine ⟨fun w hw => absurd ((opnd_plainFirst _ _).symm.trans hw) nofun, fun i w hi hw => ?_⟩
    cases hi
    obtain ⟨-, -, -, ho | ⟨-, ho⟩⟩ := extendedSecond_spec hj
    · exact Option.some.inj (hw.symm.trans ho)
    · cases hw.symm.trans ho
  · obtain ⟨j, hj, rfl⟩ := packetOf_eq_ok (hd.symm.trans h)
    refine ⟨fun w hw => absurd ((opnd_plainFirst _ _).symm.trans hw) nofun, fun i w hi hw => ?_⟩
    cases hi
    obtain ⟨-, -, -, ho⟩ := plainSecond_spec _ _ _ hj
    cases hw.symm.trans ho

/-- The operand of a decoded sub-operation is that of the bytes after the header byte (R88). -/
theorem opnd_of_decodeAt {b : Byte} {rest : List Byte} {slot : Slot} {i : Instr} {w : Word}
    (h : decodeAt slot (b :: rest) = some i) (hw : i.opnd = some w) : w = operandOf rest := by
  rw [decodeAt] at h
  split at h
  next p hp =>
    obtain ⟨hfirst, hsecond⟩ := opnd_of_decode hp
    cases slot with
    | one => cases h; exact hfirst w hw
    | two => exact hsecond i w h hw
  next => cases h

theorem operandOf_cons (o0 o1 o2 o3 : Byte) (rest : List Byte) :
    operandOf (o0 :: o1 :: o2 :: o3 :: rest) = bigEndian o0 o1 o2 o3 := rfl

/-- Settles O6: a fetched word and an operand are four bytes joined alike. -/
theorem operandIsFourBytesBigEndian : Obligations.OperandIsFourBytesBigEndian := by
  unfold Obligations.OperandIsFourBytesBigEndian
  refine ⟨fun buffer a o0 o1 o2 o3 h0 h1 h2 h3 => ?_, fun b o0 o1 o2 o3 rest slot i w h hw => ?_⟩
  · rw [fetch32, getD_of_getElem? h0, getD_of_getElem? h1, getD_of_getElem? h2, getD_of_getElem? h3, bigEndian_toNat]
  · rw [opnd_of_decodeAt h hw, operandOf_cons]
    exact ⟨bigEndian_toNat o0 o1 o2 o3, lowByte_bigEndian o0 o1 o2 o3⟩

/-! ### The bits that are ignored -/

/-- A defined selector drops the low nibble of the header byte (R87). -/
theorem extendedAlone_pad {spb : Code} (h : spb.toNat < 6) (pad pad' : Nibble) (w : Word) :
    extendedAlone spb pad w = extendedAlone spb pad' w := by
  have hdefined : ∀ spb : Code, spb.toNat < 6 → spb = 0 ∨ spb = 1 ∨ spb = 2 ∨ spb = 3 ∨ spb = 4 ∨ spb = 5 := by decide
  rcases hdefined spb h with rfl | rfl | rfl | rfl | rfl | rfl <;> rfl

theorem exec_addn {i : Instr} {o : Word} (hop : i.op = .addn) (ho : i.opnd = some o) (s : State) :
    exec i s = opAddn i.slot o s := by
  cases i with
  | addnX | addnPX => cases ho; rfl
  | _ => cases hop

theorem exec_subn {i : Instr} {o : Word} (hop : i.op = .subn) (ho : i.opnd = some o) (s : State) :
    exec i s = opSubn i.slot o s := by
  cases i with
  | subnX | subnPX => cases ho; rfl
  | _ => cases hop

/-- Operands with the same low byte add the same (R89). -/
theorem opAddn_congr {o o' : Word} (h : lowByte o = lowByte o') (slot : Slot) (s : State) :
    opAddn slot o s = opAddn slot o' s := by
  rw [opAddn, opAddn, h]

theorem opSubn_congr {o o' : Word} (h : lowByte o = lowByte o') (slot : Slot) (s : State) :
    opSubn slot o s = opSubn slot o' s := by
  rw [opSubn, opSubn, h]

/-- Settles O5: a defined selector has no pad, and the cell arithmetic looks at the low byte alone. -/
theorem ignoredBitsChangeNothing : Obligations.IgnoredBitsChangeNothing := by
  unfold Obligations.IgnoredBitsChangeNothing
  refine ⟨fun spb pad pad' rest hspb => ?_, fun i j o o' s hop hjop hslot hi hj hmod => ?_⟩
  · rw [decode_alone, decode_alone, extendedAlone_pad hspb]
  · have hlow : lowByte o = lowByte o' := BitVec.eq_of_toNat_eq (by rw [lowByte_toNat, lowByte_toNat, hmod])
    rcases hop with hop | hop
    · rw [exec_addn hop hi, exec_addn (hjop.trans hop) hj, hslot, opAddn_congr hlow]
    · rw [exec_subn hop hi, exec_subn (hjop.trans hop) hj, hslot, opSubn_congr hlow]

end Sys2Proof.Machine

/-! The cursor, the input side of the port, the jumps and the faults (spec/41_plain_control.md to 44_io_port.md,
spec/60_exceptions.md section 1): what each of these sub-operations answers. -/

namespace Sys2Proof.Machine

/-! ### The cursor -/

/-- The distance of a move: 1 for a plain code, the operand's magnitude for an extended opcode (R90, R153, R154). -/
def cursorAmount (i : Instr) : Nat :=
  match i.opnd with
  | none => 1
  | some o => magnitude o

/-- The distance is the number `n` of the statements on a plain code and its extended opcode. -/
theorem cursorAmount_eq {i : Instr} {n : Nat} {plain extended : Op} (hplain : plain = .right ∨ plain = .left)
    (hn : i.op = plain ∧ n = 1 ∨
      i.op = extended ∧ ∃ o, i.opnd = some o ∧ n = if o.toNat < 2 ^ 31 then o.toNat else 2 ^ 32 - o.toNat) :
    cursorAmount i = n := by
  rcases hn with ⟨hop, rfl⟩ | ⟨-, o, ho, rfl⟩
  · rw [← hop] at hplain
    cases i with
    | rightS1 | rightS2 | leftS1 | leftS2 => rfl
    | _ => simp [Instr.op] at hplain
  · rw [cursorAmount, ho]
    exact magnitude_eq o

/-- `RIGHT` and `RIGHTN` with the operand inside the program (R153, R175). -/
theorem exec_advance {i : Instr} {s : State} (hop : i.op = .right ∨ i.op = .rightn) (hl : OperandInside i s) :
    exec i s = .next ((s.moveCursor (cursorAmount i)).fallThrough i) := by
  cases i with
  | rightS1 | rightS2 => rfl
  | rightnX | rightnPX => exact onOperand_in (hl rfl)
  | _ => simp [Instr.op] at hop

/-- `LEFT` and `LEFTN` with the operand inside the program (R154, R176). -/
theorem exec_retreat {i : Instr} {s : State} (hop : i.op = .left ∨ i.op = .leftn) (hl : OperandInside i s) :
    exec i s = .next ((s.moveCursor (-(cursorAmount i : Int))).fallThrough i) := by
  cases i with
  | leftS1 | leftS2 => rfl
  | leftnX | leftnPX => exact onOperand_in (hl rfl)
  | _ => simp [Instr.op] at hop

/-- A move that falls through leaves everything but the cursor (R207, R208). -/
theorem State.moveCursor_fallThrough_frame (s : State) (n : Int) (i : Instr) :
    ((s.moveCursor n).fallThrough i).position = s.position + n ∧ SameTape s ((s.moveCursor n).fallThrough i) ∧
      FellThrough i s ((s.moveCursor n).fallThrough i) ∧ SameFaultRegisters s ((s.moveCursor n).fallThrough i) ∧
      SamePort s ((s.moveCursor n).fallThrough i) ∧ SameSetup s ((s.moveCursor n).fallThrough i) := by
  obtain ⟨hposition, htape, hfault, hport, hsetup⟩ := (s.moveCursor n).fallThrough_keeps i
  exact ⟨hposition, htape, State.fallThrough_fellThrough rfl rfl rfl rfl i, hfault, hport, hsetup⟩

/-- Settles O17: the move is the magnitude, and it falls through. -/
theorem advanceMovesTheCursorRight : Obligations.AdvanceMovesTheCursorRight := by
  unfold Obligations.AdvanceMovesTheCursorRight
  intro i s n hn hl
  rw [← cursorAmount_eq (.inl rfl) hn]
  exact ⟨_, exec_advance (hn.imp And.left And.left) hl, s.moveCursor_fallThrough_frame _ i⟩

/-- Settles O18: the move is the magnitude to the left, and it falls through. -/
theorem retreatMovesTheCursorLeft : Obligations.RetreatMovesTheCursorLeft := by
  unfold Obligations.RetreatMovesTheCursorLeft
  intro i s n hn hl
  rw [← cursorAmount_eq (.inr rfl) hn]
  exact ⟨_, exec_retreat (hn.imp And.left And.left) hl, s.moveCursor_fallThrough_frame _ i⟩

/-! ### The port -/

/-- Only the read of the failing number is refused (R226). -/
theorem State.readAnswer_fail {s : State} (hf : s.readFailAt = some s.inConsumed) : s.readAnswer = .fail := if_pos hf

/-- A read with a byte there is served (R224). -/
theorem State.readAnswer_of_byte {s : State} {v : Byte} (hf : s.readFailAt ≠ some s.inConsumed)
    (hv : s.inStream[s.inConsumed]? = some v) : s.readAnswer = .byte v := by
  rw [State.readAnswer, if_neg hf, hv]

/-- A read with no byte left is answered by the end of the input or not yet (R225, R133). -/
theorem State.readAnswer_of_none {s : State} (hf : s.readFailAt ≠ some s.inConsumed)
    (hv : s.inStream.length ≤ s.inConsumed) : s.readAnswer = if s.inEnded then .eof else .pending := by
  rw [State.readAnswer, if_neg hf, List.getElem?_eq_none hv]

/-- The meaning of `IN` is the shared operation in the instruction's own slot (R156). -/
theorem exec_in {i : Instr} (hop : i.op = .input) (s : State) : exec i s = opIn i.slot s := by
  cases i with
  | inS1 | inS2 => rfl
  | _ => cases hop

/-- `IN` with the cursor on a cell and a byte there stores and consumes it (R224). -/
theorem opIn_byte {slot : Slot} {s : State} {v : Byte} (hp : s.inTape s.position)
    (hf : s.readFailAt ≠ some s.inConsumed) (hv : s.inStream[s.inConsumed]? = some v) :
    opIn slot s = .next ((s.consume.setCell v).plainDone slot) := by
  rw [opIn, onCell_in hp, State.readAnswer_of_byte hf hv]

/-- `IN` with the cursor on a cell, no byte left, no end and no failure waits (R133). -/
theorem opIn_pending {slot : Slot} {s : State} (hp : s.inTape s.position) (hf : s.readFailAt ≠ some s.inConsumed)
    (hnone : s.inStream.length ≤ s.inConsumed) (hended : s.inEnded = false) : opIn slot s = .next s.block := by
  rw [opIn, onCell_in hp, State.readAnswer_of_none hf hnone, hended]
  rfl

/-- `IN` at the end of the input (R225). -/
theorem opIn_eof {slot : Slot} {s : State} (hp : s.inTape s.position) (hf : s.readFailAt ≠ some s.inConsumed)
    (hnone : s.inStream.length ≤ s.inConsumed) (hended : s.inEnded = true) :
    opIn slot s = .next (s.unblock.raise .endOfInput slot 0) := by
  rw [opIn, onCell_in hp, State.readAnswer_of_none hf hnone, hended]
  rfl

/-- `IN` on a port that fails the read (R226). -/
theorem opIn_fail {slot : Slot} {s : State} (hp : s.inTape s.position) (hf : s.readFailAt = some s.inConsumed) :
    opIn slot s = .next (s.unblock.raise .ioFailure slot 0) := by
  rw [opIn, onCell_in hp, State.readAnswer_fail hf]

/-- `OUT` on a port that fails the write (R223). -/
theorem opOut_fail {slot : Slot} {s : State} (hp : s.inTape s.position) (hw : s.writeFailAt = some s.outStream.length) :
    opOut slot s = .next (s.raise .ioFailure slot 0) := by
  rw [opOut, onCell_in hp, State.writeAnswer, if_pos hw]

/-- Settles O20: the byte is consumed and stored before the sub-operation ends. -/
theorem inStoresTheNextByte : Obligations.InStoresTheNextByte := by
  unfold Obligations.InStoresTheNextByte
  intro i s v hop htape hp hf hv
  let u := s.consume.setCell v
  have hexec : exec i s = .next (u.plainDone i.slot) := (exec_in hop s).trans (opIn_byte hp hf hv)
  have hconsume : s.consume.tapeWf := htape
  obtain ⟨hposition, hcells, hfault, ⟨hout, hin, hwaiting⟩, hsetup⟩ := u.plainDone_keeps i.slot
  exact ⟨_, hexec, (hcells _).trans (State.setCell_current hconsume v),
    fun a ha => (hcells a).trans (State.setCell_sameTapeBut hconsume hp v a ha), hin, hwaiting, hout, hposition,
    State.plainDone_ended rfl rfl rfl rfl i.slot, hfault, hsetup⟩

/-- Settles O21: the answer is `State.block`. -/
theorem inWithoutAnswerOnlyWaits : Obligations.InWithoutAnswerOnlyWaits := by
  unfold Obligations.InWithoutAnswerOnlyWaits
  intro i s hop hp hf hnone hended
  exact ⟨s.block, (exec_in hop s).trans (opIn_pending hp hf hnone hended), rfl, rfl⟩

/-- Settles O22: each failing answer of the port is a `raise`, of a read after the wait has ended. -/
theorem portEndAndFailuresAreFaults : Obligations.PortEndAndFailuresAreFaults := by
  unfold Obligations.PortEndAndFailuresAreFaults
  intro i s hp
  refine ⟨fun hop hw => ?_, fun hop hf => ?_, fun hop hf hnone hended => ?_⟩
  · exact ⟨_, (exec_out hop s).trans (opOut_fail hp hw), s.raise_raised _ _ _⟩
  · exact ⟨_, (exec_in hop s).trans (opIn_fail hp hf), s.unblock_raise_raised _ _ _⟩
  · exact ⟨_, (exec_in hop s).trans (opIn_eof hp hf hnone hended), s.unblock_raise_raised _ _ _⟩

/-! ### The jumps -/

/-- A jump with the operand inside the program and the cursor on a cell: to the target if taken, else past the operand
(R177, R178). -/
theorem exec_jump {i : Instr} {s : State} {o : Word} {taken : Bool} (ho : i.opnd = some o) (hl : OperandInside i s)
    (hp : s.inTape s.position)
    (htaken : i.op = .jz ∧ (taken = true ↔ (s.cell s.position.toNat).toNat = 0) ∨
      i.op = .jnz ∧ (taken = true ↔ (s.cell s.position.toNat).toNat ≠ 0)) :
    exec i s = if taken then jumpTo i.slot (target o) s else .next (s.endInstr (s.pc + 5)) := by
  have hzero (v : Byte) : isZero v = true ↔ v.toNat = 0 := by
    rw [isZero, beq_iff_eq, ← BitVec.toNat_inj]; rfl
  have hnonzero (v : Byte) : isNonzero v = true ↔ v.toNat ≠ 0 := by
    rw [isNonzero, bne_iff_ne, Ne, ← BitVec.toNat_inj]; rfl
  rcases htaken with ⟨hop, htaken⟩ | ⟨hop, htaken⟩
  · have htest : isZero (s.cell s.position.toNat) = taken := by rw [Bool.eq_iff_iff, hzero, htaken]
    rw [← htest]
    cases i with
    | jzX | jzPX => cases ho; exact (onOperand_in (hl rfl)).trans (onCell_in hp)
    | _ => cases hop
  · have htest : isNonzero (s.cell s.position.toNat) = taken := by rw [Bool.eq_iff_iff, hnonzero, htaken]
    rw [← htest]
    cases i with
    | jnzX | jnzPX => cases ho; exact (onOperand_in (hl rfl)).trans (onCell_in hp)
    | _ => cases hop

/-- A taken jump to a target in the program goes to the operand (R183). -/
theorem jumpTo_inside {slot : Slot} {s : State} {o : Word} (hge : 8 ≤ signedValue o) (hle : signedValue o ≤ s.len) :
    jumpTo slot (target o) s = .next (s.endInstr o) := by
  rw [← target_eq_signedValue] at hge hle
  rw [jumpTo, if_neg (by omega), ofInt_target]

/-- A taken jump to any other target faults (R183). -/
theorem jumpTo_outside {slot : Slot} {s : State} {o : Word} (h : ¬(8 ≤ signedValue o ∧ signedValue o ≤ s.len)) :
    jumpTo slot (target o) s = .next (s.raise .jumpTargetOutOfBounds slot (signedValue o)) := by
  rw [target_eq_signedValue, jumpTo, if_pos (by omega)]

/-- An accepted target is the operand's value. -/
theorem signedValue_toNat {w : Word} (h : 0 ≤ signedValue w) : (w.toNat : Int) = signedValue w := by
  rw [← target_eq_signedValue] at h ⊢
  exact target_toNat h

/-- Settles O23: not taken, taken to a target in the program, taken to another. -/
theorem jumpsTestTheCellAndCheckTheTarget : Obligations.JumpsTestTheCellAndCheckTheTarget := by
  unfold Obligations.JumpsTestTheCellAndCheckTheTarget
  intro i s o taken ho hl hp htaken
  rw [exec_jump ho hl hp htaken]
  cases taken with
  | false =>
    obtain ⟨hposition, htape, hfault, hport, hsetup⟩ := s.endInstr_keeps (s.pc + 5)
    exact ⟨_, if_neg Bool.false_ne_true, nofun, nofun, fun _ => State.endInstr_ended rfl rfl rfl _, hposition, htape, hport,
      hsetup, fun _ => hfault⟩
  | true =>
    rw [if_pos rfl]
    by_cases hin : 8 ≤ signedValue o ∧ signedValue o ≤ s.len
    · obtain ⟨hge, hle⟩ := hin
      obtain ⟨hposition, htape, hfault, hport, hsetup⟩ := s.endInstr_keeps o
      refine ⟨_, jumpTo_inside hge hle, fun _ _ _ => ⟨signedValue_toNat (w := o) (by omega),
        State.endInstr_ended rfl rfl rfl _⟩, fun _ hout => absurd ⟨hge, hle⟩ hout, nofun, hposition, htape, hport, hsetup, fun _ => hfault⟩
    · refine ⟨_, jumpTo_outside hin, fun _ hge hle => absurd ⟨hge, hle⟩ hin, fun _ _ => s.raise_raised _ _ _, nofun, rfl,
        fun _ => rfl, ⟨rfl, rfl, rfl⟩, (s.raise_raised .jumpTargetOutOfBounds i.slot (signedValue o)).sameSetup, ?_⟩
      rintro (hfalse | hin')
      · cases hfalse
      · exact absurd hin' hin

/-! ### The faults -/

/-- Settles O24: each of these meets the bound check before anything else. -/
theorem accessOutsideTheTapeIsAFault : Obligations.AccessOutsideTheTapeIsAFault := by
  unfold Obligations.AccessOutsideTheTapeIsAFault
  intro i s hop hl hout
  have hp : ¬s.inTape s.position := fun ⟨hge, hlt⟩ => by omega
  suffices hexec : exec i s = .next (s.raise .positionOutOfBounds i.slot s.position) from
    ⟨_, hexec, s.raise_raised _ _ _⟩
  cases i with
  | incS1 | incS2 | decS1 | decS2 | outS1 | outS2 | inS1 | inS2 => exact onCell_out hp
  | addnX | addnPX | subnX | subnPX | jzX | jzPX | jnzX | jnzPX => exact (onOperand_in (hl rfl)).trans (onCell_out hp)
  | _ => simp [Instr.op] at hop

/-- Settles O25: an extended opcode with a defined selector meets the truncation check first. -/
theorem truncatedOperandIsAFault : Obligations.TruncatedOperandIsAFault := by
  unfold Obligations.TruncatedOperandIsAFault
  intro i s ho hl
  suffices hexec : exec i s = .next (s.raise .truncatedInstruction i.slot s.len) from
    ⟨_, hexec, s.raise_raised _ _ _⟩
  cases i with
  | addnX | subnX | rightnX | leftnX | jzX | jnzX => exact onOperand_out hl
  | addnPX | subnPX | rightnPX | leftnPX | jzPX | jnzPX => exact onOperand_out hl
  | _ => cases ho

/-- Settles O26: the meaning of a reserved code is `raise` alone. -/
theorem reservedCodesAreFaults : Obligations.ReservedCodesAreFaults := by
  unfold Obligations.ReservedCodesAreFaults
  intro i s hop
  suffices hexec : exec i s = .next (s.raise .reservedEncoding i.slot i.header.toNat) from
    ⟨_, hexec, s.raise_raised _ _ _⟩
  cases i with
  | rsvp4S1 | rsvp5S1 | rsvp4S2 | rsvp5S2 | rsvpeS2 | rsvx6X | rsvx7X | rsvx7PX => rfl
  | _ => simp [Instr.op] at hop

end Sys2Proof.Machine

/-! The laws of the tape unit (spec/43_tape_unit.md R209, R210). -/

namespace Sys2Proof.Machine

/-! ### Writes of the current cell -/

/-- Of two writes of the current cell the second stays. -/
theorem State.setCell_setCell_tape {s : State} (h : s.tapeWf) (hp : s.inTape s.position) (v w : Byte) :
    ((s.setCell v).setCell w).tape = (s.setCell w).tape := by
  have hv : (s.setCell v).tapeWf := State.tapeWf_setCell h hp v
  refine State.tape_eq_of_cells (State.tapeWf_setCell h hp w) (State.tapeWf_setCell hv hp w) rfl fun a => ?_
  rw [State.setCell_cell hv, State.setCell_cell h, State.setCell_cell h, State.setCell_position]
  split <;> rfl

/-- Writing what the current cell holds leaves the tape. -/
theorem State.setCell_same_tape {s : State} (h : s.tapeWf) (hp : s.inTape s.position) :
    (s.setCell (s.cell s.position.toNat)).tape = s.tape := by
  refine State.tape_eq_of_cells h (State.tapeWf_setCell h hp _) rfl fun a => ?_
  rw [State.setCell_cell h]
  split
  next ha => rw [ha]
  next => rfl

theorem lowByte_add (n k : Word) : lowByte (n + k) = lowByte n + lowByte k := by
  apply BitVec.eq_of_toNat_eq
  simp only [lowByte_toNat, BitVec.toNat_add]
  omega

/-- Subtracting `n` is adding its complement to 256 (R209). -/
theorem sub_lowByte {n m : Word} (h : m.toNat % 256 = (256 - n.toNat % 256) % 256) (v : Byte) :
    v - lowByte n = v + lowByte m := by
  apply BitVec.eq_of_toNat_eq
  rw [BitVec.toNat_sub, BitVec.toNat_add, lowByte_toNat, lowByte_toNat, h]
  omega

/-! ### Two operations in turn -/

/-- The state after an `ADDN` alone with the operand inside the program and the cursor on a cell. -/
def State.afterAddn (s : State) (n : Word) : State :=
  (s.setCell (s.cell s.position.toNat + lowByte n)).endInstr (s.pc + 5)

theorem exec_addnX {s : State} (n : Word) (hl : s.pc.toNat + 4 < s.len) (hp : s.inTape s.position) :
    exec (.addnX n) s = .next (s.afterAddn n) := exec_increment (.inr rfl) (fun _ => hl) hp

/-- Settles O42: two writes of one cell are the last one, and its byte is the sum. -/
theorem cellArithmeticLaws : Obligations.CellArithmeticLaws := by
  unfold Obligations.CellArithmeticLaws
  intro s n k htape hp hl hlen
  have hpc : (s.pc + 5).toNat = s.pc.toNat + 5 := pc_add_toNat (n := 5) hlen (by omega)
  have hfirst : s.pc.toNat + 4 < s.len := by omega
  have hsecond : (s.afterAddn n).pc.toNat + 4 < (s.afterAddn n).len := by
    show (s.pc + 5).toNat + 4 < s.len
    omega
  have hcell : (s.afterAddn n).cell s.position.toNat = s.cell s.position.toNat + lowByte n := State.setCell_current htape _
  refine ⟨⟨_, _, _, _, exec_addnX n hfirst hp, exec_addnX k hsecond hp, exec_addnX (n + k) hfirst hp,
    exec_decrement (.inr rfl) (fun _ => hsecond) hp, ?_, ?_⟩, ⟨_, exec_addnX 0 hfirst hp, ?_⟩, fun m hm => ?_⟩
  · show ((s.setCell _).setCell ((s.afterAddn n).cell s.position.toNat + lowByte k)).tape = (s.setCell _).tape
    rw [State.setCell_setCell_tape htape hp, hcell, lowByte_add, BitVec.add_assoc]
  · show ((s.setCell _).setCell ((s.afterAddn n).cell s.position.toNat - lowByte n)).tape = s.tape
    rw [State.setCell_setCell_tape htape hp, hcell, BitVec.add_sub_cancel, State.setCell_same_tape htape hp]
  · show (s.setCell (s.cell s.position.toNat + lowByte 0)).tape = s.tape
    have hzero : lowByte 0 = 0 := by decide
    rw [hzero, add_zero, State.setCell_same_tape htape hp]
  · show opSubn .one n s = opAddn .one m s
    simp only [opSubn, opAddn, sub_lowByte hm]

/-- Settles O43: the two moves are the same magnitude, right and then left. -/
theorem cursorArithmeticLaws : Obligations.CursorArithmeticLaws := by
  unfold Obligations.CursorArithmeticLaws
  intro s w hl hlen
  have hpc : (s.pc + 5).toNat = s.pc.toNat + 5 := pc_add_toNat (n := 5) hlen (by omega)
  let t := (s.moveCursor (magnitude w)).endInstr (s.pc + 5)
  have hsecond : t.pc.toNat + 4 < t.len := by
    show (s.pc + 5).toNat + 4 < s.len
    omega
  have hright : exec (.rightnX w) s = .next t := exec_advance (.inr rfl) fun _ => by omega
  have hleft : exec (.leftnX w) t = .next ((t.moveCursor (-(magnitude w : Int))).endInstr (t.pc + 5)) :=
    exec_retreat (.inr rfl) fun _ => hsecond
  refine ⟨t, _, hright, hleft, ?_, ?_, fun _ => rfl⟩
  · show s.position ≤ s.position + magnitude w
    omega
  · show s.position + magnitude w + -(magnitude w : Int) = s.position
    omega

end Sys2Proof.Machine

/-! Steps of given header bytes (spec/40_fetch_decode_dispatch.md sections 3 and 4, spec/42_extended.md section 4): slot 1
before slot 2, the wait in slot 2, and the jumps that make a loop. -/

namespace Sys2Proof.Machine

/-! ### Slot 1, then slot 2 -/

/-- The instruction at `pc` is read from its header byte on (R121). -/
theorem State.instructionAtPc_of_fetch {s : State} {b : Byte} (h : s.fetch s.pc.toNat = some b) :
    s.instructionAtPc = decode (b :: s.bytesFrom (s.pc.toNat + 1)) := by
  rw [State.instructionAtPc, State.bytesFrom_of_fetch h]

/-- A step whose plain code completes in slot 1 is slot 2 in the state it left (R125). -/
theorem step_second {s u : State} {first i : Instr} (hl : s.loadRequest = none) (hr : s.rs = .running) (hs : s.slot = .one)
    (hpc : 8 ≤ s.pc.toNat) (hd : s.instructionAtPc = .ok ⟨first, some i⟩) (hfirst : exec first s = .next u)
    (hu : u.slot = .two) : step s = exec i u :=
  (step_packet hl hr hpc hd).trans (runPacket_two hs hfirst hu rfl)

/-- A step after a wait in slot 2 is slot 2 alone (R133). -/
theorem step_second_alone {s : State} {first i : Instr} (hl : s.loadRequest = none) (hr : s.rs = .running)
    (hs : s.slot = .two) (hpc : 8 ≤ s.pc.toNat) (hd : s.instructionAtPc = .ok ⟨first, some i⟩) : step s = exec i s :=
  (step_packet hl hr hpc hd).trans (runPacket_second hs rfl)

/-- Settles O34: slot 2 is an `INC` in the state that `RIGHT` left. -/
theorem slotTwoSeesWhatSlotOneDid : Obligations.SlotTwoSeesWhatSlotOneDid := by
  unfold Obligations.SlotTwoSeesWhatSlotOneDid
  intro s hl hr hs hpc htape hfetch
  let u := (s.moveCursor 1).toSlotTwo
  have hd : s.instructionAtPc = .ok ⟨.rightS1 0, some (.incS2 2)⟩ := (State.instructionAtPc_of_fetch hfetch).trans rfl
  have hstep : step s = exec (.incS2 2) u := step_second hl hr hs hpc hd rfl rfl
  rw [hstep]
  by_cases hp : s.inTape (s.position + 1)
  · obtain ⟨t, hexec, hcell, hbut, hposition, hend, -⟩ :=
      incrementAddsModulo256 (.incS2 2) u 1 (.inl ⟨rfl, rfl⟩) nofun htape hp
    exact ⟨t, hexec, hposition, fun _ => ⟨hcell, hbut, hend⟩, fun hout => absurd hp hout⟩
  · obtain ⟨t, hexec, hcause, hfaultPc, hfaultSlot, hinfo, -, hrs, hpc', -, hposition, hcells, -⟩ :=
      accessOutsideTheTapeIsAFault (.incS2 2) u (.inl rfl) nofun (by
        show s.position + 1 < 0 ∨ (s.tapeLen : Int) ≤ s.position + 1
        omega)
    exact ⟨t, hexec, hposition, fun hin => absurd hin hp,
      fun _ => ⟨hrs, hcause, hfaultPc, Fin.ext hfaultSlot, hinfo, hpc', hcells⟩⟩

/-- Settles O36: the wait holds slot 2 with slot 1 done, so the next steps run `IN` alone. -/
theorem waitInSlotTwoKeepsSlotOne : Obligations.WaitInSlotTwoKeepsSlotOne := by
  unfold Obligations.WaitInSlotTwoKeepsSlotOne
  intro s w hl hr hs hpc htape hp hfetch hwrite hread hended hconsumed
  let u := (s.emit (s.cell s.position.toNat)).toSlotTwo
  let t := u.block
  let served : State := { t with inStream := s.inStream ++ [w] }
  have hd : s.instructionAtPc = .ok ⟨.outS1 7, some (.inS2 6)⟩ := (State.instructionAtPc_of_fetch hfetch).trans rfl
  have hout : exec (.outS1 7) s = .next u := opOut_ok hp (by simp [hwrite])
  have hread' : s.readFailAt ≠ some s.inConsumed := by simp [hread]
  have hnone : s.inStream.length ≤ s.inConsumed := hconsumed.ge
  have hfirst : step s = .next t :=
    (step_second hl hr hs hpc hd hout rfl).trans (opIn_pending (s := u) hp hread' hnone hended)
  have hsecond : step t = .next t :=
    (step_second_alone (s := t) hl hr rfl hpc hd).trans (opIn_pending (s := t) hp hread' hnone hended)
  have hmove : t.afterHost (.deliver [w]) = served := State.afterHost_deliver (s := t) hended [w]
  have hbyte : served.inStream[served.inConsumed]? = some w := by
    show (s.inStream ++ [w])[s.inConsumed]? = some w
    simp [hconsumed]
  obtain ⟨v, hexec, hcell, -, hin, hwaiting, hout', -, hend, -⟩ :=
    inStoresTheNextByte (.inS2 6) served w rfl htape hp hread' hbyte
  refine ⟨t, hfirst, hr, rfl, rfl, rfl, rfl, fun _ => rfl, hsecond, v, ?_, hcell, hout', hin, hwaiting, hend⟩
  rw [hmove]
  exact (step_second_alone (s := served) hl hr rfl hpc hd).trans hexec

/-! ### The plain code before its extended opcode -/

/-- Four bytes that are an operand's are read as it, and they are there. -/
theorem operandOf_of_take {rest : List Byte} {w : Word} (h : rest.take 4 = operandBytes w) :
    operandOf rest = w ∧ 4 ≤ rest.length := by
  have hlen : (rest.take 4).length = 4 := by rw [h]; rfl
  refine ⟨?_, by rw [List.length_take] at hlen; omega⟩
  rw [← List.take_append_drop 4 rest, h, operandOf_operandBytes]

/-- A target in the program is its bits' value. -/
theorem signedValue_of_le {w : Word} (h : w.toNat ≤ 2 ^ 31 - 1) : signedValue w = w.toNat := if_pos (by omega)

section
variable {s : State} (hl : s.loadRequest = none) (hr : s.rs = .running) (hs : s.slot = .one) (hpc : 8 ≤ s.pc.toNat)
include hl hr hs hpc

/-- `RIGHT`, `JZ`: the jump tests the cell moved to. -/
theorem step_rightThenJz {w : Word} (hfetch : s.fetch s.pc.toNat = some 0x2C#8)
    (hw : (s.bytesFrom (s.pc.toNat + 1)).take 4 = operandBytes w) (hp : s.inTape (s.position + 1)) (hge : 8 ≤ w.toNat)
    (hle : w.toNat ≤ s.len) (hlen : s.len ≤ 2 ^ 31 - 1) :
    ∃ t, step s = .next t ∧ t.position = s.position + 1 ∧ SameTape s t ∧ SameFaultRegisters s t ∧ SamePort s t ∧
      SameSetup s t ∧ (s.cell (s.position + 1).toNat = 0 → Ended w s t) ∧
      (s.cell (s.position + 1).toNat ≠ 0 → Ended (s.pc + 5) s t) := by
  let u := (s.moveCursor 1).toSlotTwo
  obtain ⟨hoperand, hbytes⟩ := operandOf_of_take hw
  have hinside : s.pc.toNat + 4 < s.len := by
    rw [State.bytesFrom, List.length_drop] at hbytes
    rw [State.len]
    omega
  have hd : s.instructionAtPc = .ok ⟨.rightS1 12, some (.jzPX 2 w)⟩ := by
    rw [State.instructionAtPc_of_fetch hfetch, ← hoperand]
    rfl
  have hstep : step s = exec (.jzPX 2 w) u := step_second hl hr hs hpc hd rfl rfl
  have hvalue : signedValue w = w.toNat := signedValue_of_le (by omega)
  have htarget : 8 ≤ signedValue w ∧ signedValue w ≤ u.len := by
    rw [hvalue]
    exact ⟨by omega, Int.ofNat_le.mpr hle⟩
  obtain ⟨t, hexec, htaken, -, hnot, hposition, htape, hport, hsetup, hfault⟩ :=
    jumpsTestTheCellAndCheckTheTarget (.jzPX 2 w) u w (decide ((u.cell u.position.toNat).toNat = 0)) rfl (fun _ => hinside)
      hp (.inl ⟨rfl, decide_eq_true_iff⟩)
  have hcell : (u.cell u.position.toNat).toNat = 0 ↔ s.cell (s.position + 1).toNat = 0 := BitVec.toNat_inj (y := 0)
  rw [decide_eq_true_iff, hcell] at htaken
  rw [decide_eq_false_iff_not, hcell] at hnot
  exact ⟨t, hstep.trans hexec, hposition, htape, hfault (.inr htarget), hport, hsetup,
    fun hzero => (htaken hzero htarget.1 htarget.2).2, hnot⟩

/-- `OUT`, `ADDN` as the program's last byte: the byte is written, then the operand is missing. -/
theorem step_outThenTruncatedAddn (hfetch : s.fetch s.pc.toNat = some 0x68#8) (hlen : s.len = s.pc.toNat + 1)
    (hp : s.inTape s.position) (hwrite : s.writeFailAt = none) :
    ∃ t, step s = .next t ∧ t.outStream = s.outStream ++ [s.cell s.position.toNat] ∧ t.rs = .faulted ∧
      t.cause = .truncatedInstruction ∧ t.faultPc = s.pc ∧ t.faultSlot = 2 ∧ t.faultInfo = s.len ∧ t.pc = s.pc ∧
      t.position = s.position ∧ SameTape s t ∧ SameSetup s t := by
  let u := (s.emit (s.cell s.position.toNat)).toSlotTwo
  let second : Instr := .addnPX 6 (operandOf (s.bytesFrom (s.pc.toNat + 1)))
  have hd : s.instructionAtPc = .ok ⟨.outS1 8, some second⟩ := (State.instructionAtPc_of_fetch hfetch).trans rfl
  have hout : exec (.outS1 8) s = .next u := opOut_ok hp (by simp [hwrite])
  obtain ⟨t, hexec, hcause, hfaultPc, hfaultSlot, hinfo, -, hrs, hpc', -, hposition, htape, hstream, -, -, hsetup⟩ :=
    truncatedOperandIsAFault second u rfl (by show s.len ≤ s.pc.toNat + 4; omega)
  exact ⟨t, (step_second hl hr hs hpc hd hout rfl).trans hexec, hstream, hrs, hcause, hfaultPc, Fin.ext hfaultSlot, hinfo,
    hpc', hposition, htape, hsetup⟩

/-- `INC`, `ADDN`: the cell is incremented twice. -/
theorem step_incThenAddn {n : Byte} (htape : s.tapeWf) (hp : s.inTape s.position) (hfetch : s.fetch s.pc.toNat = some 0x08#8)
    (hn : s.fetch (s.pc.toNat + 4) = some n) :
    ∃ t, step s = .next t ∧
      (t.cell s.position.toNat).toNat = ((s.cell s.position.toNat).toNat + 1 + n.toNat) % 256 ∧
      SameTapeBut s.position s t ∧ t.position = s.position ∧ Ended (s.pc + 5) s t ∧ SameFaultRegisters s t ∧
      SamePort s t ∧ SameSetup s t := by
  let w := operandOf (s.bytesFrom (s.pc.toNat + 1))
  let u := (s.setCell (s.cell s.position.toNat + 1)).toSlotTwo
  have hd : s.instructionAtPc = .ok ⟨.incS1 8, some (.addnPX 0 w)⟩ := (State.instructionAtPc_of_fetch hfetch).trans rfl
  have hinc : exec (.incS1 8) s = .next u := exec_increment (.inl rfl) nofun hp
  have hinside : s.pc.toNat + 4 < s.len := State.fetch_isSome.mp (by rw [hn]; rfl)
  have hlast : (s.bytesFrom (s.pc.toNat + 1)).getD 3 0 = n := by
    refine getD_of_getElem? ?_
    rw [State.bytesFrom, List.getElem?_drop]
    exact hn
  have hlow : w.toNat % 256 = n.toNat := by
    rw [← lowByte_toNat, show lowByte w = (s.bytesFrom (s.pc.toNat + 1)).getD 3 0 from lowByte_bigEndian _ _ _ _, hlast]
  have hutape : u.tapeWf := State.tapeWf_setCell htape hp _
  obtain ⟨t, hexec, hcell, hbut, hposition, hend, hfault, hport, hsetup⟩ :=
    incrementAddsModulo256 (.addnPX 0 w) u n.toNat (.inr ⟨rfl, w, rfl, hlow.symm⟩) (fun _ => hinside) hutape hp
  have hucell : u.cell u.position.toNat = s.cell s.position.toNat + 1 := State.setCell_current htape _
  refine ⟨t, (step_second hl hr hs hpc hd hinc rfl).trans hexec, ?_, fun a ha => ?_, hposition, hend, hfault, hport, hsetup⟩
  · rw [hucell, BitVec.toNat_add] at hcell
    refine hcell.trans ?_
    show ((_ + 1) % 256 + _) % 256 = _
    omega
  · exact (hbut a ha).trans (State.setCell_sameTapeBut htape hp _ a ha)

end

/-- Settles O35, by the three header bytes. -/
theorem plainCodeComesBeforeItsExtendedOpcode : Obligations.PlainCodeComesBeforeItsExtendedOpcode := by
  unfold Obligations.PlainCodeComesBeforeItsExtendedOpcode
  intro s hl hr hs hpc
  exact ⟨fun _ => step_rightThenJz hl hr hs hpc, step_outThenTruncatedAddn hl hr hs hpc,
    fun _ => step_incThenAddn hl hr hs hpc⟩

/-! ### Jumps on their own -/

/-- A sub-operation with an operand is no plain code. -/
theorem asFirst_eq_none_of_opnd {i : Instr} {o : Word} (h : i.opnd = some o) : i.asFirst = none := by
  cases i with
  | incS1 | decS1 | rightS1 | leftS1 | rsvp4S1 | rsvp5S1 | outS1 | inS1 => cases h
  | _ => rfl

/-- A sub-operation with an operand is encoded in five bytes (R88, R92). -/
theorem encode_length_of_opnd {i : Instr} {o : Word} (h : i.opnd = some o) : (encode i).length = 5 := by
  cases i with
  | addnX | subnX | rightnX | leftnX | jzX | jnzX => rfl
  | addnPX | subnPX | rightnPX | leftnPX | jzPX | jnzPX => rfl
  | _ => cases h

/-- As many bytes as a list has at an offset are inside the program. -/
theorem State.len_of_bytesFrom {s : State} {a : Nat} {bytes rest : List Byte} (h : s.bytesFrom a = bytes ++ rest)
    (hbytes : 0 < bytes.length) : a + bytes.length ≤ s.len := by
  have hlength := congrArg List.length h
  rw [State.bytesFrom, List.length_drop, List.length_append] at hlength
  rw [State.len]
  omega

/-- A jump on its own at `pc`, with the cursor on a cell and a target in the program. -/
structure JumpAtPc (i : Instr) (o : Word) (s : State) : Prop where
  no_load : s.loadRequest = none
  running : s.rs = .running
  slot_one : s.slot = .one
  pc_ge : 8 ≤ s.pc.toNat
  len_le : s.len ≤ 2 ^ 31 - 1
  on_cell : s.inTape s.position
  target_ge : 8 ≤ o.toNat
  target_le : o.toNat ≤ s.len
  alone : i.slot = .one
  opnd : i.opnd = some o
  bytes : ∃ rest, s.bytesFrom s.pc.toNat = encode i ++ rest

theorem JumpAtPc.inside {i : Instr} {o : Word} {s : State} (h : JumpAtPc i o s) : s.pc.toNat + 5 ≤ s.len := by
  obtain ⟨rest, hbytes⟩ := h.bytes
  have hfive := encode_length_of_opnd h.opnd
  exact hfive ▸ State.len_of_bytesFrom hbytes (by omega)

/-- The step of such a jump: to the target if taken, else to the next instruction (R177, R178). -/
theorem JumpAtPc.step_of_taken {i : Instr} {o : Word} {s : State} (h : JumpAtPc i o s) {taken : Bool}
    (htaken : i.op = .jz ∧ (taken = true ↔ (s.cell s.position.toNat).toNat = 0) ∨
      i.op = .jnz ∧ (taken = true ↔ (s.cell s.position.toNat).toNat ≠ 0)) :
    ∃ t, step s = .next t ∧ SameTape s t ∧ t.position = s.position ∧ SameSetup s t ∧
      Ended (if taken then o else s.pc + 5) s t := by
  obtain ⟨rest, hbytes⟩ := h.bytes
  have hd : s.instructionAtPc = .ok ⟨i, none⟩ := by
    rw [State.instructionAtPc, hbytes]
    exact decode_encode_alone h.alone (asFirst_eq_none_of_opnd h.opnd) rest
  have hinside := h.inside
  have hle := h.target_le
  have hvalue : signedValue o = o.toNat := signedValue_of_le (hle.trans h.len_le)
  have htarget : 8 ≤ signedValue o ∧ signedValue o ≤ s.len := by
    have hge := h.target_ge
    omega
  obtain ⟨t, hexec, hto, -, hnot, hposition, htape, -, hsetup, -⟩ :=
    jumpsTestTheCellAndCheckTheTarget i s o taken h.opnd (fun _ => hinside) h.on_cell htaken
  have hend : Ended (if taken then o else s.pc + 5) s t := by
    cases taken with
    | true => exact (hto rfl htarget.1 htarget.2).2
    | false => exact hnot rfl
  obtain ⟨hpc, hone, hstatus⟩ := hend
  exact ⟨t, (step_packet h.no_load h.running h.pc_ge hd).trans (runPacket_one h.slot_one hexec hone), htape, hposition,
    hsetup, hpc, hone, hstatus⟩

/-- The step of a `JZ` on its own (R177). -/
theorem JumpAtPc.step_jz {o : Word} {s : State} (h : JumpAtPc (.jzX o) o s) :
    ∃ t, step s = .next t ∧ SameTape s t ∧ t.position = s.position ∧ SameSetup s t ∧
      Ended (if s.cell s.position.toNat = 0 then o else s.pc + 5) s t := by
  have htest : decide (s.cell s.position.toNat = 0) = true ↔ (s.cell s.position.toNat).toNat = 0 := by
    rw [decide_eq_true_iff, ← BitVec.toNat_inj]
    rfl
  simpa using h.step_of_taken (.inl ⟨rfl, htest⟩)

/-- The step of a `JNZ` on its own (R178). -/
theorem JumpAtPc.step_jnz {o : Word} {s : State} (h : JumpAtPc (.jnzX o) o s) :
    ∃ t, step s = .next t ∧ SameTape s t ∧ t.position = s.position ∧ SameSetup s t ∧
      Ended (if s.cell s.position.toNat ≠ 0 then o else s.pc + 5) s t := by
  have htest : decide (s.cell s.position.toNat ≠ 0) = true ↔ (s.cell s.position.toNat).toNat ≠ 0 := by
    rw [decide_eq_true_iff, Ne, ← BitVec.toNat_inj]
    rfl
  simpa using h.step_of_taken (.inr ⟨rfl, htest⟩)

/-- Settles O37: each jump goes to the instruction after the other one, or to the next instruction, which is the loop's body
or its end. -/
theorem loopConstructRepeatsWhileNonzero : Obligations.LoopConstructRepeatsWhileNonzero := by
  unfold Obligations.LoopConstructRepeatsWhileNonzero
  intro s a c hl hr hs hlen hp ha hac hc hjz hjnz
  have hB : (BitVec.ofNat 32 (c + 5)).toNat = c + 5 := by rw [BitVec.toNat_ofNat]; omega
  have hA : (BitVec.ofNat 32 (a + 5)).toNat = a + 5 := by rw [BitVec.toNat_ofNat]; omega
  constructor
  · intro hpc
    have hjump : JumpAtPc (.jzX (BitVec.ofNat 32 (c + 5))) (BitVec.ofNat 32 (c + 5)) s :=
      ⟨hl, hr, hs, by omega, hlen, hp, by omega, by omega, rfl, rfl, _, hpc ▸ hjz⟩
    have hnext : (s.pc + 5).toNat = a + 5 := hpc ▸ pc_add_toNat (n := 5) hlen hjump.inside
    obtain ⟨t, hstep, htape, hposition, -, hpc', -⟩ := hjump.step_jz
    refine ⟨t, hstep, htape, hposition, fun hzero => ?_, fun hne => ?_⟩
    · rw [hpc', if_pos hzero, hB]
    · rw [hpc', if_neg hne, hnext]
  · intro hpc
    have hjump : JumpAtPc (.jnzX (BitVec.ofNat 32 (a + 5))) (BitVec.ofNat 32 (a + 5)) s :=
      ⟨hl, hr, hs, by omega, hlen, hp, by omega, by omega, rfl, rfl, _, hpc ▸ hjnz⟩
    have hnext : (s.pc + 5).toNat = c + 5 := hpc ▸ pc_add_toNat (n := 5) hlen hjump.inside
    obtain ⟨t, hstep, htape, hposition, -, hpc', -⟩ := hjump.step_jnz
    refine ⟨t, hstep, htape, hposition, fun hne => ?_, fun hzero => ?_⟩
    · rw [hpc', if_pos hne, hA]
    · rw [hpc', if_neg (not_not.mpr hzero), hnext]

/-- Settles O38: if the cell is 0 the first jump is taken; else the core goes on to the second, which is. -/
theorem jumpPairIsUnconditional : Obligations.JumpPairIsUnconditional := by
  unfold Obligations.JumpPairIsUnconditional
  intro s w hl hr hs hpc hlen hp hge hle hbytes
  have hjz : JumpAtPc (.jzX w) w s :=
    ⟨hl, hr, hs, hpc, hlen, hp, hge, hle, rfl, rfl, _, hbytes.trans (List.append_assoc ..)⟩
  obtain ⟨t, hstep, htape, hposition, ⟨hload, hprog, -, -, htapeLen, -⟩, hpc', hone, hstatus⟩ := hjz.step_jz
  refine ⟨t, hstep, ?_⟩
  by_cases hzero : s.cell s.position.toNat = 0
  · exact .inl (hpc'.trans (if_pos hzero))
  · right
    rw [if_neg hzero] at hpc' hstatus
    have hnext : (s.pc + 5).toNat = s.pc.toNat + 5 := pc_add_toNat (n := 5) hlen hjz.inside
    have hten : s.pc.toNat + 10 ≤ s.len := State.len_of_bytesFrom hbytes (by simp [encode])
    rw [if_neg (by omega)] at hstatus
    obtain ⟨hrs, -⟩ := hstatus
    have hlen' : t.len = s.len := congrArg List.length hprog
    have hbytes' : t.bytesFrom t.pc.toNat = encode (.jnzX w) ++ s.bytesFrom (s.pc.toNat + 10) := by
      rw [State.bytesFrom, hprog, hpc', hnext, ← List.drop_drop]
      exact congrArg (List.drop 5) hbytes
    have hjnz : JumpAtPc (.jnzX w) w t :=
      ⟨hload.trans hl, hrs.trans hr, hone, by rw [hpc']; omega, by omega,
        by rw [State.inTape, hposition, htapeLen]; exact hp, hge, by omega, rfl, rfl, _, hbytes'⟩
    have hcell : t.cell t.position.toNat ≠ 0 := by rwa [hposition, htape]
    obtain ⟨u, hstep', htape', hposition', -, hpc'', -⟩ := hjnz.step_jnz
    exact ⟨u, hstep', hpc''.trans (if_pos hcell), hposition'.trans hposition, fun a => (htape' a).trans (htape a)⟩

end Sys2Proof.Machine
